-- ==== Sys2Proof/Word.lean ====
section
/-! DEFINITION. The widths the spec fixes (R6): bytes, 16-bit fields, command words, responses, times. -/

namespace Sys2Proof

/-- A memory byte, a byte-register cache, a timer count, a slot number, an opcode (R6, R70). -/
abbrev Byte := BitVec 8

/-- A 16-bit field: a byte index, a bit index, a word-register cache, a frequency, INFO (R6, R70). -/
abbrev Half := BitVec 16

/-- The command word CMD (R70). -/
abbrev Command := BitVec 64

/-- The response word RSP (R80). -/
abbrev Rsp := BitVec 32

/-- A NOW sample: a 64-bit count of nanoseconds (R33, R180). -/
abbrev Time := BitVec 64

end Sys2Proof
end

