-- ==== Sys2Proof/Config.lean ====
section
/-! DEFINITION. What an implementation fixes (the parameters of R6) and the one free value (NOW draws, R180). -/

namespace Sys2Proof

/-- MEM_BIT_ORDER and REG_BIT_ORDER (R6): which end of a byte or cache index 0 names. -/
inductive BitOrder where
  /-- index k has weight 2^k -/
  | lsb0
  /-- index k has weight 2^(W-1-k) -/
  | msb0
  deriving DecidableEq, Repr

/-- The parameters that stay constant between two resets and are no state of their own (R6, R20). -/
structure Params where
  /-- CAP, the capacity in bytes -/
  cap : Nat
  /-- NUM_BREG -/
  numBreg : Nat
  /-- NUM_WREG -/
  numWreg : Nat
  /-- NUM_TIMER -/
  numTimer : Nat
  /-- MEM_BIT_ORDER (R55) -/
  memBitOrder : BitOrder
  /-- REG_BIT_ORDER (R129) -/
  regBitOrder : BitOrder
  deriving DecidableEq, Repr

/-- The configuration a reset takes (R240). `init = none` is a configuration that gives no INIT (D29). -/
structure Configuration where
  params : Params
  start : Half
  init : Option (List Byte)
  deriving DecidableEq, Repr

namespace Config

/-- FREE VALUE (R180, D21; log entry 3): what the time source answers at draw `n` when the model's state names no
sample. It has no body, so nothing can be proved about its value; the floor of R180 is applied where it is used. -/
opaque freeNow : Nat → Time

/-- DESIGN CHOICE (log entry 1): the legal configuration `State.reset` is taken at. CAP and START are those of the
source's end-to-end example (V-L1-8), the rest those of the spec's vectors. No statement rests on it. -/
def resetConfiguration : Configuration where
  params :=
    { cap := 10, numBreg := 4, numWreg := 4, numTimer := 4, memBitOrder := .lsb0, regBitOrder := .lsb0 }
  start := 4
  init := none

end Config

end Sys2Proof
end

