-- ==== Sys2Proof/Syntax.lean ====
section
/-! DEFINITION. The 28 commands (R73), one constructor each with the operands it uses (R72), and their written
form (R85). -/

namespace Sys2Proof

/-- One constructor per row of R73 and of spec/opcode_table.json. The arguments are the used fields in the order
SLOT, A, B, C, at the widths of R72. -/
inductive Instr where
  | status
  | memGetByte (index : Half)
  | memSetByte (index : Half) (value : Byte)
  | memGetBit (bit : Half)
  | memSetBit (bit : Half) (on : Bool)
  | memByteAtStart
  | memBitAtStart
  | memStartOffset
  | memDump
  | bregCfg (slot : Byte) (index : Half) (value : Byte)
  | bregPull (slot : Byte)
  | bregPush (slot : Byte)
  | bregGetBit (slot : Byte) (i : Half)
  | bregSetBit (slot : Byte) (i : Half) (on : Bool)
  | bregValue (slot : Byte)
  | bregSetValue (slot : Byte) (value : Byte)
  | wregCfg (slot : Byte) (low high : Half) (value : Half)
  | wregPull (slot : Byte)
  | wregPush (slot : Byte)
  | wregGetBit (slot : Byte) (i : Half)
  | wregSetBit (slot : Byte) (i : Half) (on : Bool)
  | wregGetComp (slot : Byte) (i : Half)
  | wregSetComp (slot : Byte) (i : Half) (value : Byte)
  | wregValue (slot : Byte)
  | wregSetValue (slot : Byte) (value : Half)
  | timerCfg (slot : Byte) (index : Half) (freq : Half) (count : Byte)
  | timerUpdate (slot : Byte)
  | timerValue (slot : Byte)
  deriving DecidableEq, Repr

/-- The names of the commands, without operands. -/
inductive Mnemonic where
  | status | memGetByte | memSetByte | memGetBit | memSetBit | memByteAtStart | memBitAtStart | memStartOffset | memDump
  | bregCfg | bregPull | bregPush | bregGetBit | bregSetBit | bregValue | bregSetValue
  | wregCfg | wregPull | wregPush | wregGetBit | wregSetBit | wregGetComp | wregSetComp | wregValue | wregSetValue
  | timerCfg | timerUpdate | timerValue
  deriving DecidableEq, Repr

/-- Every mnemonic, in the order of R73. -/
def Mnemonic.all : List Mnemonic :=
  [.status, .memGetByte, .memSetByte, .memGetBit, .memSetBit, .memByteAtStart, .memBitAtStart, .memStartOffset,
   .memDump] ++
  [.bregCfg, .bregPull, .bregPush, .bregGetBit, .bregSetBit, .bregValue, .bregSetValue] ++
  [.wregCfg, .wregPull, .wregPush, .wregGetBit, .wregSetBit, .wregGetComp, .wregSetComp, .wregValue,
   .wregSetValue] ++
  [.timerCfg, .timerUpdate, .timerValue]

def Instr.mnemonic : Instr → Mnemonic
  | .status => .status
  | .memGetByte _ => .memGetByte
  | .memSetByte _ _ => .memSetByte
  | .memGetBit _ => .memGetBit
  | .memSetBit _ _ => .memSetBit
  | .memByteAtStart => .memByteAtStart
  | .memBitAtStart => .memBitAtStart
  | .memStartOffset => .memStartOffset
  | .memDump => .memDump
  | .bregCfg _ _ _ => .bregCfg
  | .bregPull _ => .bregPull
  | .bregPush _ => .bregPush
  | .bregGetBit _ _ => .bregGetBit
  | .bregSetBit _ _ _ => .bregSetBit
  | .bregValue _ => .bregValue
  | .bregSetValue _ _ => .bregSetValue
  | .wregCfg _ _ _ _ => .wregCfg
  | .wregPull _ => .wregPull
  | .wregPush _ => .wregPush
  | .wregGetBit _ _ => .wregGetBit
  | .wregSetBit _ _ _ => .wregSetBit
  | .wregGetComp _ _ => .wregGetComp
  | .wregSetComp _ _ _ => .wregSetComp
  | .wregValue _ => .wregValue
  | .wregSetValue _ _ => .wregSetValue
  | .timerCfg _ _ _ _ => .timerCfg
  | .timerUpdate _ => .timerUpdate
  | .timerValue _ => .timerValue

/-- The three kinds of slot and their letters (R85). -/
inductive SlotKind where
  /-- `b<n>`, a byte-register slot -/
  | b
  /-- `w<n>`, a word-register slot -/
  | w
  /-- `t<n>`, a timer slot -/
  | t
  deriving DecidableEq, Repr

/-- One written operand (R85): a slot with its letter, or a number. -/
inductive Operand where
  | slot (kind : SlotKind) (n : Nat)
  | num (n : Nat)
  deriving DecidableEq, Repr

/-- A written command (R85) before it is checked: any mnemonic with any operands. -/
structure Written where
  mnemonic : Mnemonic
  operands : List Operand
  deriving DecidableEq, Repr

/-- What one operand place of a mnemonic takes: a slot of a kind, or a number of at most `width` bits. -/
inductive OperandForm where
  | slot (kind : SlotKind)
  | num (width : Nat)
  deriving DecidableEq, Repr

/-- The forms of R85, at the widths of R72. -/
def Mnemonic.form : Mnemonic → List OperandForm
  | .status | .memByteAtStart | .memBitAtStart | .memStartOffset | .memDump => []
  | .memGetByte | .memGetBit => [.num 16]
  | .memSetByte => [.num 16, .num 8]
  | .memSetBit => [.num 16, .num 1]
  | .bregCfg => [.slot .b, .num 16, .num 8]
  | .bregPull | .bregPush | .bregValue => [.slot .b]
  | .bregGetBit => [.slot .b, .num 16]
  | .bregSetBit => [.slot .b, .num 16, .num 1]
  | .bregSetValue => [.slot .b, .num 8]
  | .wregCfg => [.slot .w, .num 16, .num 16, .num 16]
  | .wregPull | .wregPush | .wregValue => [.slot .w]
  | .wregGetBit | .wregGetComp => [.slot .w, .num 16]
  | .wregSetBit => [.slot .w, .num 16, .num 1]
  | .wregSetComp => [.slot .w, .num 16, .num 8]
  | .wregSetValue => [.slot .w, .num 16]
  | .timerCfg => [.slot .t, .num 16, .num 16, .num 8]
  | .timerUpdate | .timerValue => [.slot .t]

end Sys2Proof
end

