-- ==== Sys2Proof/WellFormed.lean ====
section
/-! DEFINITION. When a written command is well formed (R85). A decoded `Instr` needs no check of its own: its operand
types are exactly the field widths of R72, so every term of `Instr` has a command word. -/

namespace Sys2Proof

/-- "An assembler refuses an operand that does not fit its field and a slot letter that does not match the
mnemonic's kind" (R85). A slot number has the 8 bits of SLOT (R70). -/
def Operand.fits : OperandForm → Operand → Bool
  | .slot k, .slot k' n => k == k' && n < 256
  | .num w, .num n => n < 2 ^ w
  | .slot _, .num _ => false
  | .num _, .slot _ _ => false

/-- One operand for each place of the form, each fitting its place. -/
def operandsFit : List OperandForm → List Operand → Bool
  | [], [] => true
  | f :: fs, o :: os => Operand.fits f o && operandsFit fs os
  | [], _ :: _ => false
  | _ :: _, [] => false

/-- A written command that the assembler accepts (R85). -/
def Written.wellFormed (w : Written) : Bool :=
  operandsFit w.mnemonic.form w.operands

end Sys2Proof
end

