-- ==== Sys2Proof/Decode.lean ====
section
/-! DEFINITION. Command words to commands and back (R70 to R79), and the written form to commands (R85).
Decoding is total: every 64-bit word is a command or is rejected by name (R79). -/

namespace Sys2Proof

/-! ### Fields (R70) -/

/-- OP = CMD[63:56] -/
def opField (w : Command) : Byte := w.extractLsb' 56 8

/-- SLOT = CMD[55:48] -/
def slotField (w : Command) : Byte := w.extractLsb' 48 8

/-- A = CMD[47:32] -/
def aField (w : Command) : Half := w.extractLsb' 32 16

/-- B = CMD[31:16] -/
def bField (w : Command) : Half := w.extractLsb' 16 16

/-- C = CMD[15:0] -/
def cField (w : Command) : Half := w.extractLsb' 0 16

/-- CMD = OP * 2^56 + SLOT * 2^48 + A * 2^32 + B * 2^16 + C (R70) -/
def commandWord (op slot : Byte) (a b c : Half) : Command := op ++ slot ++ a ++ b ++ c

/-- An 8-bit value in C[7:0] (R72). -/
def byteOfC (c : Half) : Byte := c.setWidth 8

/-- A flag in C[0] (R72). -/
def flagOfC (c : Half) : Bool := c.getLsbD 0

/-- C holding an 8-bit value, its other bits zero (R72, R74). -/
def cOfByte (v : Byte) : Half := v.setWidth 16

/-- C holding a flag, its other bits zero (R72, R74). -/
def cOfFlag (on : Bool) : Half := if on then 1 else 0

/-! ### Opcode map (R73) -/

/-- The OP column of R73. -/
def Mnemonic.opcode : Mnemonic → Byte
  | .status => 0x01
  | .memGetByte => 0x10
  | .memSetByte => 0x11
  | .memGetBit => 0x12
  | .memSetBit => 0x13
  | .memByteAtStart => 0x14
  | .memBitAtStart => 0x15
  | .memStartOffset => 0x16
  | .memDump => 0x17
  | .bregCfg => 0x20
  | .bregPull => 0x21
  | .bregPush => 0x22
  | .bregGetBit => 0x23
  | .bregSetBit => 0x24
  | .bregValue => 0x25
  | .bregSetValue => 0x26
  | .wregCfg => 0x30
  | .wregPull => 0x31
  | .wregPush => 0x32
  | .wregGetBit => 0x33
  | .wregSetBit => 0x34
  | .wregGetComp => 0x35
  | .wregSetComp => 0x36
  | .wregValue => 0x37
  | .wregSetValue => 0x38
  | .timerCfg => 0x40
  | .timerUpdate => 0x41
  | .timerValue => 0x42

/-- The command an opcode names, `none` for the illegal OP values of R75. -/
def mnemonicOfOpcode (op : Byte) : Option Mnemonic :=
  Mnemonic.all.find? fun m => m.opcode == op

/-- The must-be-zero bits of R74 are all zero. STATUS has none (R77). -/
def reservedClear (m : Mnemonic) (slot : Byte) (a b c : Half) : Bool :=
  match m with
  | .status => true
  | .memGetByte | .memGetBit => slot == 0 && b == 0 && c == 0
  | .memSetByte => slot == 0 && b == 0 && c.extractLsb' 8 8 == 0
  | .memSetBit => slot == 0 && b == 0 && c.extractLsb' 1 15 == 0
  | .memByteAtStart | .memBitAtStart | .memStartOffset | .memDump => slot == 0 && a == 0 && b == 0 && c == 0
  | .bregCfg => b == 0 && c.extractLsb' 8 8 == 0
  | .bregPull | .bregPush | .bregValue | .wregPull | .wregPush | .wregValue | .timerUpdate | .timerValue =>
    a == 0 && b == 0 && c == 0
  | .bregGetBit | .wregGetBit | .wregGetComp => a == 0 && c == 0
  | .bregSetBit | .wregSetBit => a == 0 && c.extractLsb' 1 15 == 0
  | .wregSetComp => a == 0 && c.extractLsb' 8 8 == 0
  | .bregSetValue => a == 0 && b == 0 && c.extractLsb' 8 8 == 0
  | .wregSetValue => a == 0 && b == 0
  | .wregCfg => true
  | .timerCfg => c.extractLsb' 8 8 == 0

/-- The command a mnemonic and the fields make (R72, R73). -/
def buildInstr (m : Mnemonic) (slot : Byte) (a b c : Half) : Instr :=
  match m with
  | .status => .status
  | .memGetByte => .memGetByte a
  | .memSetByte => .memSetByte a (byteOfC c)
  | .memGetBit => .memGetBit a
  | .memSetBit => .memSetBit a (flagOfC c)
  | .memByteAtStart => .memByteAtStart
  | .memBitAtStart => .memBitAtStart
  | .memStartOffset => .memStartOffset
  | .memDump => .memDump
  | .bregCfg => .bregCfg slot a (byteOfC c)
  | .bregPull => .bregPull slot
  | .bregPush => .bregPush slot
  | .bregGetBit => .bregGetBit slot b
  | .bregSetBit => .bregSetBit slot b (flagOfC c)
  | .bregValue => .bregValue slot
  | .bregSetValue => .bregSetValue slot (byteOfC c)
  | .wregCfg => .wregCfg slot a b c
  | .wregPull => .wregPull slot
  | .wregPush => .wregPush slot
  | .wregGetBit => .wregGetBit slot b
  | .wregSetBit => .wregSetBit slot b (flagOfC c)
  | .wregGetComp => .wregGetComp slot b
  | .wregSetComp => .wregSetComp slot b (byteOfC c)
  | .wregValue => .wregValue slot
  | .wregSetValue => .wregSetValue slot c
  | .timerCfg => .timerCfg slot a b (byteOfC c)
  | .timerUpdate => .timerUpdate slot
  | .timerValue => .timerValue slot

/-! ### Decoding -/

/-- Why a word is no command. Both raise ILLEGAL_COMMAND with INFO = OP (R75, R76). -/
inductive DecodeError where
  /-- OP is not assigned (R75) -/
  | illegalOpcode (op : Byte)
  /-- OP is assigned and a must-be-zero bit is one (R76) -/
  | reservedBits (op : Byte)
  deriving DecidableEq, Repr

/-- The OP of the rejected word. -/
def DecodeError.op : DecodeError → Byte
  | .illegalOpcode op => op
  | .reservedBits op => op

/-- Every 64-bit word is one row of R73 with its reserved bits zero, or is rejected (R79). -/
def decode (w : Command) : Except DecodeError Instr :=
  match mnemonicOfOpcode (opField w) with
  | none => .error (.illegalOpcode (opField w))
  | some m =>
    if reservedClear m (slotField w) (aField w) (bField w) (cField w) then
      .ok (buildInstr m (slotField w) (aField w) (bField w) (cField w))
    else .error (.reservedBits (opField w))

/-- The word of a command: its opcode, its operands in their fields, every other bit zero (R70, R72, R73). STATUS
ignores 56 bits (R77); its canonical word has them zero (log entry 12). -/
def encode : Instr → Command
  | .status => commandWord 0x01 0 0 0 0
  | .memGetByte index => commandWord 0x10 0 index 0 0
  | .memSetByte index value => commandWord 0x11 0 index 0 (cOfByte value)
  | .memGetBit bit => commandWord 0x12 0 bit 0 0
  | .memSetBit bit on => commandWord 0x13 0 bit 0 (cOfFlag on)
  | .memByteAtStart => commandWord 0x14 0 0 0 0
  | .memBitAtStart => commandWord 0x15 0 0 0 0
  | .memStartOffset => commandWord 0x16 0 0 0 0
  | .memDump => commandWord 0x17 0 0 0 0
  | .bregCfg slot index value => commandWord 0x20 slot index 0 (cOfByte value)
  | .bregPull slot => commandWord 0x21 slot 0 0 0
  | .bregPush slot => commandWord 0x22 slot 0 0 0
  | .bregGetBit slot i => commandWord 0x23 slot 0 i 0
  | .bregSetBit slot i on => commandWord 0x24 slot 0 i (cOfFlag on)
  | .bregValue slot => commandWord 0x25 slot 0 0 0
  | .bregSetValue slot value => commandWord 0x26 slot 0 0 (cOfByte value)
  | .wregCfg slot low high value => commandWord 0x30 slot low high value
  | .wregPull slot => commandWord 0x31 slot 0 0 0
  | .wregPush slot => commandWord 0x32 slot 0 0 0
  | .wregGetBit slot i => commandWord 0x33 slot 0 i 0
  | .wregSetBit slot i on => commandWord 0x34 slot 0 i (cOfFlag on)
  | .wregGetComp slot i => commandWord 0x35 slot 0 i 0
  | .wregSetComp slot i value => commandWord 0x36 slot 0 i (cOfByte value)
  | .wregValue slot => commandWord 0x37 slot 0 0 0
  | .wregSetValue slot value => commandWord 0x38 slot 0 0 value
  | .timerCfg slot index freq count => commandWord 0x40 slot index freq (cOfByte count)
  | .timerUpdate slot => commandWord 0x41 slot 0 0 0
  | .timerValue slot => commandWord 0x42 slot 0 0 0

/-- The match and mask words of spec/opcode_table.json: a word `w` is row `m` iff `w &&& mask = match`. The decoder
does not use them; they are a second, independent reading of R73 and R74. -/
def opcodeTable : List (Mnemonic × Command × Command) :=
  [(.status, 0x0100000000000000, 0xff00000000000000),
   (.memGetByte, 0x1000000000000000, 0xffff0000ffffffff),
   (.memSetByte, 0x1100000000000000, 0xffff0000ffffff00),
   (.memGetBit, 0x1200000000000000, 0xffff0000ffffffff),
   (.memSetBit, 0x1300000000000000, 0xffff0000fffffffe),
   (.memByteAtStart, 0x1400000000000000, 0xffffffffffffffff),
   (.memBitAtStart, 0x1500000000000000, 0xffffffffffffffff),
   (.memStartOffset, 0x1600000000000000, 0xffffffffffffffff),
   (.memDump, 0x1700000000000000, 0xffffffffffffffff)] ++
  [(.bregCfg, 0x2000000000000000, 0xff000000ffffff00),
   (.bregPull, 0x2100000000000000, 0xff00ffffffffffff),
   (.bregPush, 0x2200000000000000, 0xff00ffffffffffff),
   (.bregGetBit, 0x2300000000000000, 0xff00ffff0000ffff),
   (.bregSetBit, 0x2400000000000000, 0xff00ffff0000fffe),
   (.bregValue, 0x2500000000000000, 0xff00ffffffffffff),
   (.bregSetValue, 0x2600000000000000, 0xff00ffffffffff00)] ++
  [(.wregCfg, 0x3000000000000000, 0xff00000000000000),
   (.wregPull, 0x3100000000000000, 0xff00ffffffffffff),
   (.wregPush, 0x3200000000000000, 0xff00ffffffffffff),
   (.wregGetBit, 0x3300000000000000, 0xff00ffff0000ffff),
   (.wregSetBit, 0x3400000000000000, 0xff00ffff0000fffe),
   (.wregGetComp, 0x3500000000000000, 0xff00ffff0000ffff),
   (.wregSetComp, 0x3600000000000000, 0xff00ffff0000ff00),
   (.wregValue, 0x3700000000000000, 0xff00ffffffffffff),
   (.wregSetValue, 0x3800000000000000, 0xff00ffffffff0000)] ++
  [(.timerCfg, 0x4000000000000000, 0xff0000000000ff00),
   (.timerUpdate, 0x4100000000000000, 0xff00ffffffffffff),
   (.timerValue, 0x4200000000000000, 0xff00ffffffffffff)]

/-- The command that a word of `nbits` bits holds, numbered as spec/opcode_table.json numbers them. A command is ONE
64-bit word and no byte serialisation exists (R71, R79), so bit k of the row is CMD[k]; bits from `nbits` up are 0. -/
def decodeTableWord (nbits w : Nat) : Option Instr :=
  (decode (BitVec.ofNat 64 (w % 2 ^ nbits))).toOption

/-! ### The written form (R85) -/

/-- The command a well-formed written command stands for; anything else is refused (R85). -/
def assemble (w : Written) : Option Instr :=
  if w.wellFormed then
    match w.mnemonic, w.operands with
    | .status, [] => some .status
    | .memGetByte, [.num i] => some (.memGetByte (.ofNat 16 i))
    | .memSetByte, [.num i, .num v] => some (.memSetByte (.ofNat 16 i) (.ofNat 8 v))
    | .memGetBit, [.num b] => some (.memGetBit (.ofNat 16 b))
    | .memSetBit, [.num b, .num on] => some (.memSetBit (.ofNat 16 b) (on == 1))
    | .memByteAtStart, [] => some .memByteAtStart
    | .memBitAtStart, [] => some .memBitAtStart
    | .memStartOffset, [] => some .memStartOffset
    | .memDump, [] => some .memDump
    | .bregCfg, [.slot _ s, .num i, .num v] => some (.bregCfg (.ofNat 8 s) (.ofNat 16 i) (.ofNat 8 v))
    | .bregPull, [.slot _ s] => some (.bregPull (.ofNat 8 s))
    | .bregPush, [.slot _ s] => some (.bregPush (.ofNat 8 s))
    | .bregGetBit, [.slot _ s, .num i] => some (.bregGetBit (.ofNat 8 s) (.ofNat 16 i))
    | .bregSetBit, [.slot _ s, .num i, .num on] => some (.bregSetBit (.ofNat 8 s) (.ofNat 16 i) (on == 1))
    | .bregValue, [.slot _ s] => some (.bregValue (.ofNat 8 s))
    | .bregSetValue, [.slot _ s, .num v] => some (.bregSetValue (.ofNat 8 s) (.ofNat 8 v))
    | .wregCfg, [.slot _ s, .num lo, .num hi, .num v] =>
      some (.wregCfg (.ofNat 8 s) (.ofNat 16 lo) (.ofNat 16 hi) (.ofNat 16 v))
    | .wregPull, [.slot _ s] => some (.wregPull (.ofNat 8 s))
    | .wregPush, [.slot _ s] => some (.wregPush (.ofNat 8 s))
    | .wregGetBit, [.slot _ s, .num i] => some (.wregGetBit (.ofNat 8 s) (.ofNat 16 i))
    | .wregSetBit, [.slot _ s, .num i, .num on] => some (.wregSetBit (.ofNat 8 s) (.ofNat 16 i) (on == 1))
    | .wregGetComp, [.slot _ s, .num i] => some (.wregGetComp (.ofNat 8 s) (.ofNat 16 i))
    | .wregSetComp, [.slot _ s, .num i, .num v] => some (.wregSetComp (.ofNat 8 s) (.ofNat 16 i) (.ofNat 8 v))
    | .wregValue, [.slot _ s] => some (.wregValue (.ofNat 8 s))
    | .wregSetValue, [.slot _ s, .num v] => some (.wregSetValue (.ofNat 8 s) (.ofNat 16 v))
    | .timerCfg, [.slot _ s, .num i, .num f, .num v] =>
      some (.timerCfg (.ofNat 8 s) (.ofNat 16 i) (.ofNat 16 f) (.ofNat 8 v))
    | .timerUpdate, [.slot _ s] => some (.timerUpdate (.ofNat 8 s))
    | .timerValue, [.slot _ s] => some (.timerValue (.ofNat 8 s))
    | _, _ => none
  else none

/-- A written flag operand: `on` is 0 or 1 (R85). -/
def flagOperand (on : Bool) : Operand := .num (if on then 1 else 0)

/-- The operands of a command as R85 writes them, in the order SLOT, A, B, C. -/
def writtenOperands : Instr → List Operand
  | .status | .memByteAtStart | .memBitAtStart | .memStartOffset | .memDump => []
  | .memGetByte i | .memGetBit i => [.num i.toNat]
  | .memSetByte i v => [.num i.toNat, .num v.toNat]
  | .memSetBit b on => [.num b.toNat, flagOperand on]
  | .bregCfg s i v => [.slot .b s.toNat, .num i.toNat, .num v.toNat]
  | .bregPull s | .bregPush s | .bregValue s => [.slot .b s.toNat]
  | .bregGetBit s i => [.slot .b s.toNat, .num i.toNat]
  | .bregSetBit s i on => [.slot .b s.toNat, .num i.toNat, flagOperand on]
  | .bregSetValue s v => [.slot .b s.toNat, .num v.toNat]
  | .wregCfg s lo hi v => [.slot .w s.toNat, .num lo.toNat, .num hi.toNat, .num v.toNat]
  | .wregPull s | .wregPush s | .wregValue s => [.slot .w s.toNat]
  | .wregGetBit s i | .wregGetComp s i => [.slot .w s.toNat, .num i.toNat]
  | .wregSetBit s i on => [.slot .w s.toNat, .num i.toNat, flagOperand on]
  | .wregSetComp s i v => [.slot .w s.toNat, .num i.toNat, .num v.toNat]
  | .wregSetValue s v => [.slot .w s.toNat, .num v.toNat]
  | .timerCfg s i f v => [.slot .t s.toNat, .num i.toNat, .num f.toNat, .num v.toNat]
  | .timerUpdate s | .timerValue s => [.slot .t s.toNat]

/-- The written form of a command (R85). -/
def writtenOf (i : Instr) : Written := ⟨i.mnemonic, writtenOperands i⟩

/-- The mnemonic in lower case (R85). -/
def mnemonicText : Mnemonic → List Char
  | .status => "status".toList
  | .memGetByte => "mem_get_byte".toList
  | .memSetByte => "mem_set_byte".toList
  | .memGetBit => "mem_get_bit".toList
  | .memSetBit => "mem_set_bit".toList
  | .memByteAtStart => "mem_byte_at_start".toList
  | .memBitAtStart => "mem_bit_at_start".toList
  | .memStartOffset => "mem_start_offset".toList
  | .memDump => "mem_dump".toList
  | .bregCfg => "breg_cfg".toList
  | .bregPull => "breg_pull".toList
  | .bregPush => "breg_push".toList
  | .bregGetBit => "breg_get_bit".toList
  | .bregSetBit => "breg_set_bit".toList
  | .bregValue => "breg_value".toList
  | .bregSetValue => "breg_set_value".toList
  | .wregCfg => "wreg_cfg".toList
  | .wregPull => "wreg_pull".toList
  | .wregPush => "wreg_push".toList
  | .wregGetBit => "wreg_get_bit".toList
  | .wregSetBit => "wreg_set_bit".toList
  | .wregGetComp => "wreg_get_comp".toList
  | .wregSetComp => "wreg_set_comp".toList
  | .wregValue => "wreg_value".toList
  | .wregSetValue => "wreg_set_value".toList
  | .timerCfg => "timer_cfg".toList
  | .timerUpdate => "timer_update".toList
  | .timerValue => "timer_value".toList

/-- The pieces of a text between the separators `sep`. -/
def piecesAt (sep : Char) : List Char → List (List Char)
  | [] => [[]]
  | c :: cs =>
    if c = sep then [] :: piecesAt sep cs
    else
      match piecesAt sep cs with
      | [] => [[c]]
      | p :: ps => (c :: p) :: ps

/-- A text without the spaces before and after it. -/
def trimSpaces (cs : List Char) : List Char :=
  ((cs.dropWhile (· == ' ')).reverse.dropWhile (· == ' ')).reverse

/-- The value of a digit in a base up to 16; capital hexadecimal digits count as small ones (log entry 15). -/
def digitValue (base : Nat) (c : Char) : Option Nat :=
  let v :=
    if '0' ≤ c ∧ c ≤ '9' then some (c.toNat - '0'.toNat)
    else if 'a' ≤ c ∧ c ≤ 'f' then some (c.toNat - 'a'.toNat + 10)
    else if 'A' ≤ c ∧ c ≤ 'F' then some (c.toNat - 'A'.toNat + 10)
    else none
  v.filter (· < base)

/-- A run of digits after the value read so far. -/
def digitsFrom (base acc : Nat) : List Char → Option Nat
  | [] => some acc
  | c :: cs => (digitValue base c).bind fun d => digitsFrom base (acc * base + d) cs

/-- "Numbers are decimal or `0x` hexadecimal" (R85). -/
def parseNumber : List Char → Option Nat
  | [] => none
  | '0' :: 'x' :: c :: cs => digitsFrom 16 0 (c :: cs)
  | c :: cs => digitsFrom 10 0 (c :: cs)

/-- A slot with its letter, or a number (R85). -/
def parseOperand : List Char → Option Operand
  | 'b' :: cs => (parseNumber cs).map (.slot .b)
  | 'w' :: cs => (parseNumber cs).map (.slot .w)
  | 't' :: cs => (parseNumber cs).map (.slot .t)
  | cs => (parseNumber cs).map .num

/-- The comma-separated operands (R85); no text is no operand. -/
def parseOperands (cs : List Char) : Option (List Operand) :=
  if trimSpaces cs = [] then some []
  else (piecesAt ',' cs).mapM fun p => parseOperand (trimSpaces p)

/-- One written line: the mnemonic, a space, the operands (R85). -/
def parseLine (cs : List Char) : Option Written :=
  let line := trimSpaces cs
  let name := line.takeWhile (· != ' ')
  let rest := line.dropWhile (· != ' ')
  (Mnemonic.all.find? fun m => mnemonicText m == name).bind fun m =>
    (parseOperands rest).map fun os => ⟨m, os⟩

/-- The word an assembler makes of a line, `none` where it refuses the line (R85). -/
def assembleLine (text : String) : Option Command :=
  ((parseLine text.toList).bind assemble).map encode

end Sys2Proof
end

