-- ==== Sys2Proof/Machine/State.lean ====
section
/-! DEFINITION. The state the spec gives the block (R20 to R33), the model's own fields for its ports and its time
input, the reasons the model stops, and the state after reset (R39). -/

namespace Sys2Proof.Machine

/-- Sparse data by key, in one canonical form: keys strictly rising (`Table.Sorted` in Machine/Ops.lean). -/
abbrev Table (α : Type) := List (Nat × α)

/-- M (R21), sparse: the bytes that differ from `Memory.unlisted` (Machine/Ops.lean, log entry 7). -/
abbrev Memory := List Host.Cell

/-- What a constructed byte-register slot holds (R24). A slot with cfg = 0 holds no value and is not listed (R38,
log entry 8). -/
structure ByteReg where
  /-- the bound memory index -/
  idx : Half
  /-- the cached value -/
  cache : Byte
  deriving DecidableEq, Repr

/-- What a constructed word-register slot holds (R27). -/
structure WordReg where
  /-- the bound index of the most significant byte -/
  lo : Half
  /-- the bound index of the least significant byte -/
  hi : Half
  /-- the cached value -/
  cache : Half
  deriving DecidableEq, Repr

/-- What a constructed timer slot holds (R29). -/
structure Timer where
  /-- the bound memory index of the timer's own byte register -/
  idx : Half
  /-- that register's cache, the count -/
  cache : Byte
  /-- the tick frequency in hertz -/
  freq : Half
  /-- last_tick: NOW at the last effective decrement, or at construction -/
  lastTick : Time
  deriving DecidableEq, Repr

/-- The sticky fault latch (R31). -/
structure FaultLatch where
  faulted : Bool
  cause : Byte
  info : Half
  deriving DecidableEq, Repr

/-- One TICK record of the event output (R32, R84). -/
structure Tick where
  slot : Byte
  /-- the count before the decrement -/
  value : Byte
  /-- nanoseconds from the baseline to the check sample -/
  elapsed : Time
  deriving DecidableEq, Repr

/-- The faults the BLOCK raises (R211). Raising one is a next state of the model (`raiseFault`, Machine/Ops.lean),
not a stop. -/
inductive Cause where
  | oorMemByte | oorMemBit | oorRegBit | oorRegByte | construction | bitPastEnd
  | illegalCommand | slotRange | slotUnconfigured | timerFreqZero
  deriving DecidableEq, Repr

/-- One response: the word RSP (R80) and the bytes that follow it, which only a MEM_DUMP has (R83). -/
structure Response where
  word : Rsp
  dump : List Byte
  deriving DecidableEq, Repr

/-- What the host does between two steps of the block (R231): it sends a command word, or it resets the block. -/
inductive HostInput where
  | command (word : Command)
  | reset (configuration : Configuration)
  deriving DecidableEq, Repr

/-- The block, with its ports and its time input. -/
structure State where
  /-- CAP, the slot counts and the bit orders; only a reset changes them (R6, R241, log entry 11) -/
  params : Params
  /-- START (R22) -/
  start : Half
  /-- M (R21) -/
  mem : Memory
  /-- the constructed byte-register slots by slot number (R24) -/
  bregs : Table ByteReg
  /-- the constructed word-register slots by slot number (R27) -/
  wregs : Table WordReg
  /-- the constructed timer slots by slot number (R29) -/
  timers : Table Timer
  /-- the fault latch (R31) -/
  latch : FaultLatch
  /-- the event output, oldest first (R32) -/
  events : List Tick
  /-- T_LAST, the spec's ghost value: the greatest NOW sample so far (R33); no command's effect depends on it but for
  the floor of R180 -/
  tLast : Option Time
  /-- the model's own: what the host does next, oldest first (log entry 2) -/
  inputs : List HostInput
  /-- the model's own: the responses given so far, oldest first (R71, log entry 6) -/
  responses : List Response
  /-- the model's own: the NOW samples the time source answers with, oldest first (R180, log entry 3) -/
  nowIn : List Time
  /-- the model's own: how many free NOW draws have been taken (log entry 3) -/
  draws : Nat
  deriving DecidableEq, Repr

/-- Why the model stops. No command of the block stops it: the block's own faults are next states (`Cause`). -/
inductive Fault where
  /-- Raised by `sampleNow` (TIMER_CFG and TIMER_UPDATE) when the state's time input answers with a sample smaller
  than an earlier one. The host "must never" do so and the model has no move for it (R231, H-1). SAFE: the model stops
  where the spec gives no behaviour (log entry 4). -/
  | nowBelowEarlierSample
  deriving DecidableEq, Repr

/-- What the model refuses. -/
inductive Refusal where
  /-- Raised by `exec` for a command that has no meaning yet (none is left). SAFE. -/
  | notModelled (mnemonic : String)
  /-- Raised by `takeReset` for a configuration that fails R7: "the model has no reset state for it" (R240). SAFE: the
  model stops where the spec refuses (log entry 5). -/
  | illegalConfiguration
  deriving DecidableEq, Repr

/-- The block right after reset (R39) at the configuration `Config.resetConfiguration` (log entry 1), with nothing
on its ports. Every other legal configuration has its own reset state, `stateAt` (Machine/Reset.lean). -/
def State.reset : State where
  params := Config.resetConfiguration.params
  start := Config.resetConfiguration.start
  mem := []
  bregs := []
  wregs := []
  timers := []
  latch := { faulted := false, cause := 0, info := 0 }
  events := []
  tLast := none
  inputs := []
  responses := []
  nowIn := []
  draws := 0

end Sys2Proof.Machine
end

