-- ==== Sys2Proof/Machine/Flags.lean ====
section
/-! DEFINITION. Bit and byte positions, and the flag-like response bits. The block has no flags (R35): the only
flag-like values are the response bits still_running and ticked of TIMER_UPDATE and the bit results of the GET_BIT
commands. -/

namespace Sys2Proof.Machine

/-- The weight of index `k` in a field of `width` bits (R55, R129): k under LSB0, width - 1 - k under MSB0. -/
def bitPosition (order : BitOrder) (width k : Nat) : Nat :=
  match order with
  | .lsb0 => k
  | .msb0 => width - 1 - k

/-- `v` with bit `p` replaced by `on`, the other bits unchanged (R55). -/
def replaceBit {w : Nat} (v : BitVec w) (p : Nat) (on : Bool) : BitVec w :=
  if on then v ||| BitVec.twoPow w p else v &&& ~~~BitVec.twoPow w p

/-- `zext_16` of a byte (R10). -/
def zextByte (v : Byte) : Half := v.setWidth 16

/-- `zext_16` of one bit (R10, R82). -/
def zextBit (x : Bool) : Half := if x then 1 else 0

/-- v[15:8], the most significant byte of a 16-bit value (R56). -/
def highByte (v : Half) : Byte := v.extractLsb' 8 8

/-- v[7:0], the least significant byte of a 16-bit value (R56). -/
def lowByte (v : Half) : Byte := v.extractLsb' 0 8

/-- `m ++ l`, big-endian composition (R10, R56). -/
def composeBytes (m l : Byte) : Half := m ++ l

/-- DATA of TIMER_UPDATE (R82): DATA[0] = still_running, DATA[1] = ticked, the rest 0. -/
def updateData (stillRunning ticked : Bool) : Half :=
  (if ticked then 2 else 0) ||| zextBit stillRunning

end Sys2Proof.Machine
end

