-- ==== Sys2Proof/Machine/Ops.lean ====
section
/-! DEFINITION. The named operations on the state: tables and memory, the response port, raising a fault (the one
shared exception entry; there is no return from a fault but reset, R217), the checked memory primitives (R51, R55),
sampling NOW (R180) and emitting a TICK (R187). A checked operation takes what follows it as an argument: "nothing after
a raise runs" (R12). -/

namespace Sys2Proof.Machine

/-! ### Tables and memory -/

/-- The entry of key `k`. -/
def Table.find? {α : Type} : Table α → Nat → Option α
  | [], _ => none
  | (a, x) :: t, k => if a = k then some x else Table.find? t k

/-- Make `x` the entry of key `k`, at its place in the order. -/
def Table.put {α : Type} : Table α → Nat → α → Table α
  | [], k, x => [(k, x)]
  | (a, y) :: t, k, x =>
    if k < a then (k, x) :: (a, y) :: t
    else if k = a then (k, x) :: t
    else (a, y) :: Table.put t k x

/-- Remove the entry of key `k`. -/
def Table.erase {α : Type} (t : Table α) (k : Nat) : Table α :=
  t.filter fun c => c.1 != k

/-- The canonical order: keys strictly rising. -/
abbrev Table.Sorted {α : Type} (t : Table α) : Prop :=
  t.Pairwise fun c d => c.1 < d.1

/-- What an unlisted byte reads as: a byte of the default INIT, which is zero (D29, log entry 7). -/
def Memory.unlisted : Byte := 0

/-- The byte at index `i`. The bounds check is `memRead`'s. -/
def Memory.read (m : Memory) (i : Nat) : Byte :=
  (Table.find? m i).getD Memory.unlisted

/-- Write byte `i`; writing what an unlisted byte reads as removes the entry. -/
def Memory.write (m : Memory) (i : Nat) (v : Byte) : Memory :=
  if v = Memory.unlisted then Table.erase m i else Table.put m i v

/-- Memory holding `bytes` from index `i` up. -/
def Memory.ofBytes (i : Nat) : List Byte → Memory
  | [] => []
  | v :: vs => if v = Memory.unlisted then Memory.ofBytes (i + 1) vs else (i, v) :: Memory.ofBytes (i + 1) vs

/-- The canonical form: indices strictly rising, no entry equal to what an unlisted byte reads as. -/
abbrev Memory.wf (m : Memory) : Prop :=
  Table.Sorted m ∧ ∀ c ∈ m, c.2 ≠ Memory.unlisted

/-! ### Reading and updating the state -/

/-- M[i] (R11, R21). -/
def State.byteAt (s : State) (i : Nat) : Byte := Memory.read s.mem i

/-- M[i] <- v. -/
def State.setByte (s : State) (i : Nat) (v : Byte) : State := { s with mem := Memory.write s.mem i v }

/-- breg[slot], `none` where breg[slot].cfg = 0 (R24, R38). -/
def State.breg? (s : State) (slot : Byte) : Option ByteReg := Table.find? s.bregs slot.toNat

/-- wreg[slot], `none` where wreg[slot].cfg = 0 (R27, R38). -/
def State.wreg? (s : State) (slot : Byte) : Option WordReg := Table.find? s.wregs slot.toNat

/-- timer[slot], `none` where timer[slot].cfg = 0 (R29, R38). -/
def State.timer? (s : State) (slot : Byte) : Option Timer := Table.find? s.timers slot.toNat

/-- breg[slot] <- r, cfg <- 1. -/
def State.putBreg (s : State) (slot : Byte) (r : ByteReg) : State :=
  { s with bregs := Table.put s.bregs slot.toNat r }

/-- wreg[slot] <- r, cfg <- 1. -/
def State.putWreg (s : State) (slot : Byte) (r : WordReg) : State :=
  { s with wregs := Table.put s.wregs slot.toNat r }

/-- timer[slot] <- r, cfg <- 1. -/
def State.putTimer (s : State) (slot : Byte) (r : Timer) : State :=
  { s with timers := Table.put s.timers slot.toNat r }

/-- Append a TICK record to the event output (R12 `emit`, R187). It changes nothing else. -/
def State.emit (s : State) (e : Tick) : State := { s with events := s.events ++ [e] }

/-- Put a response on the response port. -/
def State.answer (s : State) (r : Response) : State := { s with responses := s.responses ++ [r] }

/-- Set the fault latch (R212). -/
def State.setLatch (s : State) (l : FaultLatch) : State := { s with latch := l }

/-! ### Responses (R80 to R83) -/

/-- The ST codes of R81. -/
def stOk : BitVec 4 := 0
def stFault : BitVec 4 := 1
def stFaulted : BitVec 4 := 2

/-- RSP = ST ++ 0000 ++ CAUSE ++ DATA (R80). -/
def packRsp (st : BitVec 4) (cause : Byte) (data : Half) : Rsp := st ++ 0#4 ++ cause ++ data

/-- ST = RSP[31:28] -/
def rspSt (r : Rsp) : BitVec 4 := r.extractLsb' 28 4

/-- RSP[27:24], always 0 -/
def rspZero (r : Rsp) : BitVec 4 := r.extractLsb' 24 4

/-- CAUSE = RSP[23:16] -/
def rspCause (r : Rsp) : Byte := r.extractLsb' 16 8

/-- DATA = RSP[15:0] -/
def rspData (r : Rsp) : Half := r.extractLsb' 0 16

/-- The response ST = OK with CAUSE = 0 (R80, R82). -/
def okResponse (data : Half) : Response := { word := packRsp stOk 0 data, dump := [] }

/-- The response ST = OK of MEM_DUMP, followed by bytes (R83). -/
def dumpResponse (data : Half) (bytes : List Byte) : Response := { word := packRsp stOk 0 data, dump := bytes }

/-- The response ST = OK of STATUS, which carries the latch (R82, R200). -/
def statusResponse (l : FaultLatch) : Response := { word := packRsp stOk l.cause l.info, dump := [] }

/-- The response ST = FAULT of the command that raised the fault now in the latch (R80, R81). -/
def faultResponse (cause : Byte) (info : Half) : Response := { word := packRsp stFault cause info, dump := [] }

/-- The response ST = FAULTED of a halted block (R213). -/
def faultedResponse (l : FaultLatch) : Response := { word := packRsp stFaulted l.cause l.info, dump := [] }

/-- How a command ends. -/
abbrev Result := Host.Outcome State Fault Refusal

/-- `respond(DATA)`: the command ends with ST = OK (R12). -/
def respond (s : State) (data : Half) : Result := .next (s.answer (okResponse data))

/-- A halted block ignores the command: nothing changes, and the answer is ST = FAULTED with the latch (R213). -/
def ignoreHalted (s : State) : Result := .next (s.answer (faultedResponse s.latch))

/-! ### Raising a fault: the one exception entry -/

/-- The cause codes of R211. -/
def Cause.code : Cause → Byte
  | .oorMemByte => 0x01
  | .oorMemBit => 0x02
  | .oorRegBit => 0x03
  | .oorRegByte => 0x04
  | .construction => 0x05
  | .bitPastEnd => 0x06
  | .illegalCommand => 0x10
  | .slotRange => 0x11
  | .slotUnconfigured => 0x12
  | .timerFreqZero => 0x13

/-- The state a fault leaves (R212): every change made before it stays, the latch is set, the response is ST = FAULT. -/
def State.faultedWith (s : State) (c : Cause) (info : Half) : State :=
  (s.setLatch { faulted := true, cause := c.code, info := info }).answer (faultResponse c.code info)

/-- `raise Fault(CAUSE, INFO)` (R12, R212). -/
def raiseFault (s : State) (c : Cause) (info : Half) : Result := .next (s.faultedWith c info)

/-! ### Checked memory access -/

/-- `MemRead(i, 1)` (R51). -/
def memRead (s : State) (i : Half) (k : Byte → Result) : Result :=
  if s.params.cap ≤ i.toNat then raiseFault s .oorMemByte i else k (s.byteAt i.toNat)

/-- `MemWrite(i, 1, v)` (R51). A faulting write changes nothing in memory. -/
def memWrite (s : State) (i : Half) (v : Byte) (k : State → Result) : Result :=
  if s.params.cap ≤ i.toNat then raiseFault s .oorMemByte i else k (s.setByte i.toNat v)

/-- The bit checks of R53 and R54 on a bit index: exactly `b > CAP*8`, then `b = CAP*8`. INFO is the bit index, which
has 16 bits in every legal configuration (log entry 13). -/
def checkBitIndex (s : State) (b : Nat) (k : Result) : Result :=
  if s.params.cap * 8 < b then raiseFault s .oorMemBit (BitVec.ofNat 16 b)
  else if b = s.params.cap * 8 then raiseFault s .bitPastEnd (BitVec.ofNat 16 b)
  else k

/-- The memory bit that bit index `b` names (R52, R55). -/
def State.memBit (s : State) (b : Nat) : Bool :=
  (s.byteAt (b / 8)).getLsbD (bitPosition s.params.memBitOrder 8 (b % 8))

/-- The byte of bit index `b` with that bit replaced by `on` (R55). -/
def State.byteWithBit (s : State) (b : Nat) (on : Bool) : Byte :=
  replaceBit (s.byteAt (b / 8)) (bitPosition s.params.memBitOrder 8 (b % 8)) on

/-- `BitIndexRead(b)` (R55). -/
def bitIndexRead (s : State) (b : Nat) (k : Bool → Result) : Result :=
  checkBitIndex s b (k (s.memBit b))

/-- `BitIndexWrite(b, on)` (R55). -/
def bitIndexWrite (s : State) (b : Nat) (on : Bool) (k : State → Result) : Result :=
  checkBitIndex s b (k (s.setByte (b / 8) (s.byteWithBit b on)))

/-! ### NOW (R180) -/

/-- A free NOW draw is at least every earlier sample and under no other law (R180, log entry 3). -/
def State.freeSample (s : State) : Time :=
  match s.tLast with
  | none => Config.freeNow s.draws
  | some m => if Config.freeNow s.draws < m then m else Config.freeNow s.draws

/-- The sample the time source gives now: the next one the state names, else a free draw. -/
def State.nextSample (s : State) : Time :=
  match s.nowIn with
  | [] => s.freeSample
  | t :: _ => t

/-- The sample is not below an earlier one (R180, R231). -/
def State.sampleAllowed (s : State) : Bool :=
  match s.tLast with
  | none => true
  | some m => !(s.nextSample < m)

/-- The state after the sample has been taken: it is the greatest so far, and the next one is a new draw. -/
def State.afterSample (s : State) : State :=
  match s.nowIn with
  | [] => { s with tLast := some s.freeSample, draws := s.draws + 1 }
  | t :: ts => { s with tLast := some t, nowIn := ts }

/-- `sample NOW` (R12, R180). A time source that goes back is the host's breach: the model stops (R231, log entry 4). -/
def sampleNow (s : State) (k : Time → State → Result) : Result :=
  match s.nowIn with
  | [] => k s.nextSample s.afterSample
  | _ :: _ => if s.sampleAllowed then k s.nextSample s.afterSample else .fault .nowBelowEarlierSample

end Sys2Proof.Machine
end

