-- ==== Sys2Proof/Machine/Operands.lean ====
section
/-! DEFINITION. The common checks of R214 that precede a command's pseudocode, and the operand forms of the register
commands: register bit indices (R129), byte components (R155), the cache of a slot. -/

namespace Sys2Proof.Machine

/-- Check 2 of R214: a halted block ignores the command (R213). -/
def whenRunning (s : State) (k : Result) : Result :=
  if s.latch.faulted then ignoreHalted s else k

/-- Checks 2 and 5 of R214 for a command on one of `count` slots. -/
def withSlot (s : State) (count : Nat) (slot : Byte) (k : Result) : Result :=
  whenRunning s (if count ≤ slot.toNat then raiseFault s .slotRange (zextByte slot) else k)

/-- Check 6 of R214: the slot is constructed, and `k` runs on what it holds. -/
def whenConstructed {α : Type} (s : State) (slot : Byte) (held : Option α) (k : α → Result) : Result :=
  match held with
  | none => raiseFault s .slotUnconfigured (zextByte slot)
  | some r => k r

/-- The common checks of a byte-register command but BREG_CFG. -/
def withBreg (s : State) (slot : Byte) (k : ByteReg → Result) : Result :=
  withSlot s s.params.numBreg slot (whenConstructed s slot (s.breg? slot) k)

/-- The common checks of a word-register command but WREG_CFG. -/
def withWreg (s : State) (slot : Byte) (k : WordReg → Result) : Result :=
  withSlot s s.params.numWreg slot (whenConstructed s slot (s.wreg? slot) k)

/-- The common checks of a timer command but TIMER_CFG. -/
def withTimer (s : State) (slot : Byte) (k : Timer → Result) : Result :=
  withSlot s s.params.numTimer slot (whenConstructed s slot (s.timer? slot) k)

/-- A register bit index must be below the cache's width (R133, R134, R153, R154). -/
def checkRegBit (s : State) (width : Nat) (i : Half) (k : Result) : Result :=
  if width ≤ i.toNat then raiseFault s .oorRegBit i else k

/-- A component index is 0 or 1 (R155, R156). -/
def checkComponent (s : State) (i : Half) (k : Result) : Result :=
  if 2 ≤ i.toNat then raiseFault s .oorRegByte i else k

/-- The bit of a cache that register bit index `i` names (R129). -/
def regBit {w : Nat} (s : State) (cache : BitVec w) (i : Half) : Bool :=
  cache.getLsbD (bitPosition s.params.regBitOrder w i.toNat)

/-- A cache with the bit that register bit index `i` names replaced by `on` (R129). -/
def withRegBit {w : Nat} (s : State) (cache : BitVec w) (i : Half) (on : Bool) : BitVec w :=
  replaceBit cache (bitPosition s.params.regBitOrder w i.toNat) on

/-- Component 0 is cache[15:8], component 1 is cache[7:0] (R155, D13). -/
def component (cache : Half) (i : Half) : Byte :=
  if i = 0 then highByte cache else lowByte cache

/-- A cache with component `i` replaced, the other undisturbed (R156). -/
def withComponent (cache : Half) (i : Half) (v : Byte) : Half :=
  if i = 0 then composeBytes v (lowByte cache) else composeBytes (highByte cache) v

/-- The tick condition (R181): e * freq >= 10^9 on unbounded naturals, `e` the elapsed nanoseconds. -/
def tickDue (elapsed : Time) (freq : Half) : Bool :=
  1000000000 ≤ elapsed.toNat * freq.toNat

end Sys2Proof.Machine
end

