-- ==== Sys2Proof/Machine/ByteRegister.lean ====
section
/-! DEFINITION. The byte register commands (spec/41_byte_register.md). -/

namespace Sys2Proof.Machine

/-- BREG_CFG (R130): the bound index is not checked here. -/
def execBregCfg (slot : Byte) (index : Half) (value : Byte) (s : State) : Result :=
  withSlot s s.params.numBreg slot (respond (s.putBreg slot { idx := index, cache := value }) 0)

/-- BREG_PULL (R131). -/
def execBregPull (slot : Byte) (s : State) : Result :=
  withBreg s slot fun r => memRead s r.idx fun v => respond (s.putBreg slot { r with cache := v }) 0

/-- BREG_PUSH (R132). -/
def execBregPush (slot : Byte) (s : State) : Result :=
  withBreg s slot fun r => memWrite s r.idx r.cache fun s' => respond s' 0

/-- BREG_GET_BIT (R133): the cache only. -/
def execBregGetBit (slot : Byte) (i : Half) (s : State) : Result :=
  withBreg s slot fun r => checkRegBit s 8 i (respond s (zextBit (regBit s r.cache i)))

/-- BREG_SET_BIT (R134): the cache only. -/
def execBregSetBit (slot : Byte) (i : Half) (on : Bool) (s : State) : Result :=
  withBreg s slot fun r =>
    checkRegBit s 8 i (respond (s.putBreg slot { r with cache := withRegBit s r.cache i on }) 0)

/-- BREG_VALUE (R135). -/
def execBregValue (slot : Byte) (s : State) : Result :=
  withBreg s slot fun r => respond s (zextByte r.cache)

/-- BREG_SET_VALUE (R136). -/
def execBregSetValue (slot : Byte) (value : Byte) (s : State) : Result :=
  withBreg s slot fun r => respond (s.putBreg slot { r with cache := value }) 0

end Sys2Proof.Machine
end

