-- ==== Sys2Proof/Machine/MemoryBuffer.lean ====
section
/-! DEFINITION. The memory buffer commands (spec/40_memory_buffer.md). -/

namespace Sys2Proof.Machine

/-- MEM_GET_BYTE (R101). -/
def execMemGetByte (index : Half) (s : State) : Result :=
  whenRunning s (memRead s index fun v => respond s (zextByte v))

/-- MEM_SET_BYTE (R102). -/
def execMemSetByte (index : Half) (value : Byte) (s : State) : Result :=
  whenRunning s (memWrite s index value fun s' => respond s' 0)

/-- MEM_GET_BIT (R103). -/
def execMemGetBit (bit : Half) (s : State) : Result :=
  whenRunning s (bitIndexRead s bit.toNat fun x => respond s (zextBit x))

/-- MEM_SET_BIT (R104). -/
def execMemSetBit (bit : Half) (on : Bool) (s : State) : Result :=
  whenRunning s (bitIndexWrite s bit.toNat on fun s' => respond s' 0)

/-- MEM_BYTE_AT_START (R105). The check of MemRead is kept; it cannot fire in a legal configuration. -/
def execMemByteAtStart (s : State) : Result :=
  whenRunning s (memRead s s.start fun v => respond s (zextByte v))

/-- MEM_BIT_AT_START (R106): bit index START * 8, on unbounded naturals (R9, log entry 13). -/
def execMemBitAtStart (s : State) : Result :=
  whenRunning s (bitIndexRead s (s.start.toNat * 8) fun x => respond s (zextBit x))

/-- MEM_START_OFFSET (R107). -/
def execMemStartOffset (s : State) : Result :=
  whenRunning s (respond s s.start)

/-- M[0] to M[CAP-1], in index order (R83, R108). -/
def State.snapshot (s : State) : List Byte := (List.range s.params.cap).map s.byteAt

/-- MEM_DUMP (R108): DATA = CAP, followed by a snapshot of every byte. -/
def execMemDump (s : State) : Result :=
  whenRunning s (.next (s.answer (dumpResponse (BitVec.ofNat 16 s.params.cap) s.snapshot)))

end Sys2Proof.Machine
end

