-- ==== Sys2Proof/Machine/Status.lean ====
section
/-! DEFINITION. The status command (spec/44_status.md). -/

namespace Sys2Proof.Machine

/-- STATUS (R200): runs in every state, before and instead of the common checks, and changes no state. -/
def execStatus (s : State) : Result := .next (s.answer (statusResponse s.latch))

end Sys2Proof.Machine
end

