-- ==== Sys2Proof/Machine/Timer.lean ====
section
/-! DEFINITION. The timer commands (spec/43_timer.md). -/

namespace Sys2Proof.Machine

/-- TIMER_CFG (R182): the frequency is checked before NOW is sampled. -/
def execTimerCfg (slot : Byte) (index : Half) (freq : Half) (count : Byte) (s : State) : Result :=
  withSlot s s.params.numTimer slot
    (if freq = 0 then raiseFault s .timerFreqZero 0
     else sampleNow s fun t0 s' =>
       respond (s'.putTimer slot { idx := index, cache := count, freq := freq, lastTick := t0 }) 0)

/-- Step 4 of TIMER_UPDATE when the tick is due (R183): `r` is the timer as constructed, `v` the pulled count, `e` the
elapsed time, `s` the state after the pull and the check sample. -/
def timerTick (slot : Byte) (r : Timer) (v : Byte) (e : Time) (s : State) : Result :=
  sampleNow (s.emit { slot := slot, value := v, elapsed := e }) fun tr s' =>
    memWrite (s'.putTimer slot { r with cache := v - 1, lastTick := tr }) r.idx (v - 1) fun s'' =>
      respond s'' (updateData true true)

/-- TIMER_UPDATE (R183). -/
def execTimerUpdate (slot : Byte) (s : State) : Result :=
  withTimer s slot fun r =>
    memRead s r.idx fun v =>
      if v = 0 then respond (s.putTimer slot { r with cache := v }) (updateData false false)
      else sampleNow (s.putTimer slot { r with cache := v }) fun tc s' =>
        if tickDue (tc - r.lastTick) r.freq then timerTick slot r v (tc - r.lastTick) s'
        else respond s' (updateData true false)

/-- TIMER_VALUE (R184): the cache, no pull, no sample. -/
def execTimerValue (slot : Byte) (s : State) : Result :=
  withTimer s slot fun r => respond s (zextByte r.cache)

end Sys2Proof.Machine
end

