-- ==== Sys2Proof/Machine/WordRegister.lean ====
section
/-! DEFINITION. The word register commands (spec/42_word_register.md). -/

namespace Sys2Proof.Machine

/-- WREG_CFG (R150): `low` holds the most significant byte; only `low = high` is refused. -/
def execWregCfg (slot : Byte) (low high : Half) (value : Half) (s : State) : Result :=
  withSlot s s.params.numWreg slot
    (if low = high then raiseFault s .construction low
     else respond (s.putWreg slot { lo := low, hi := high, cache := value }) 0)

/-- WREG_PULL (R151): `lo`, then `hi`; the cache is written only if both reads succeed. -/
def execWregPull (slot : Byte) (s : State) : Result :=
  withWreg s slot fun r =>
    memRead s r.lo fun m => memRead s r.hi fun l =>
      respond (s.putWreg slot { r with cache := composeBytes m l }) 0

/-- WREG_PUSH (R152): `lo`, then `hi`; the write to `lo` stays when `hi` faults (R252). -/
def execWregPush (slot : Byte) (s : State) : Result :=
  withWreg s slot fun r =>
    memWrite s r.lo (highByte r.cache) fun s' => memWrite s' r.hi (lowByte r.cache) fun s'' => respond s'' 0

/-- WREG_GET_BIT (R153): the cache only. -/
def execWregGetBit (slot : Byte) (i : Half) (s : State) : Result :=
  withWreg s slot fun r => checkRegBit s 16 i (respond s (zextBit (regBit s r.cache i)))

/-- WREG_SET_BIT (R154): the cache only. -/
def execWregSetBit (slot : Byte) (i : Half) (on : Bool) (s : State) : Result :=
  withWreg s slot fun r =>
    checkRegBit s 16 i (respond (s.putWreg slot { r with cache := withRegBit s r.cache i on }) 0)

/-- WREG_GET_COMP (R155). -/
def execWregGetComp (slot : Byte) (i : Half) (s : State) : Result :=
  withWreg s slot fun r => checkComponent s i (respond s (zextByte (component r.cache i)))

/-- WREG_SET_COMP (R156). -/
def execWregSetComp (slot : Byte) (i : Half) (value : Byte) (s : State) : Result :=
  withWreg s slot fun r =>
    checkComponent s i (respond (s.putWreg slot { r with cache := withComponent r.cache i value }) 0)

/-- WREG_VALUE (R157). -/
def execWregValue (slot : Byte) (s : State) : Result :=
  withWreg s slot fun r => respond s r.cache

/-- WREG_SET_VALUE (R158). -/
def execWregSetValue (slot : Byte) (value : Half) (s : State) : Result :=
  withWreg s slot fun r => respond (s.putWreg slot { r with cache := value }) 0

end Sys2Proof.Machine
end

