-- ==== Sys2Proof/Machine/Dispatch.lean ====
section
/-! DEFINITION. The meaning of each command, one arm per constructor of Instr. -/

namespace Sys2Proof.Machine

def exec (i : Instr) (s : State) : Host.Outcome State Fault Refusal :=
  match i with
  | .status => Sys2Proof.Machine.execStatus s
  | .memGetByte index => Sys2Proof.Machine.execMemGetByte index s
  | .memSetByte index value => Sys2Proof.Machine.execMemSetByte index value s
  | .memGetBit bit => Sys2Proof.Machine.execMemGetBit bit s
  | .memSetBit bit on => Sys2Proof.Machine.execMemSetBit bit on s
  | .memByteAtStart => Sys2Proof.Machine.execMemByteAtStart s
  | .memBitAtStart => Sys2Proof.Machine.execMemBitAtStart s
  | .memStartOffset => Sys2Proof.Machine.execMemStartOffset s
  | .memDump => Sys2Proof.Machine.execMemDump s
  | .bregCfg slot index value => Sys2Proof.Machine.execBregCfg slot index value s
  | .bregPull slot => Sys2Proof.Machine.execBregPull slot s
  | .bregPush slot => Sys2Proof.Machine.execBregPush slot s
  | .bregGetBit slot j => Sys2Proof.Machine.execBregGetBit slot j s
  | .bregSetBit slot j on => Sys2Proof.Machine.execBregSetBit slot j on s
  | .bregValue slot => Sys2Proof.Machine.execBregValue slot s
  | .bregSetValue slot value => Sys2Proof.Machine.execBregSetValue slot value s
  | .wregCfg slot low high value => Sys2Proof.Machine.execWregCfg slot low high value s
  | .wregPull slot => Sys2Proof.Machine.execWregPull slot s
  | .wregPush slot => Sys2Proof.Machine.execWregPush slot s
  | .wregGetBit slot j => Sys2Proof.Machine.execWregGetBit slot j s
  | .wregSetBit slot j on => Sys2Proof.Machine.execWregSetBit slot j on s
  | .wregGetComp slot j => Sys2Proof.Machine.execWregGetComp slot j s
  | .wregSetComp slot j value => Sys2Proof.Machine.execWregSetComp slot j value s
  | .wregValue slot => Sys2Proof.Machine.execWregValue slot s
  | .wregSetValue slot value => Sys2Proof.Machine.execWregSetValue slot value s
  | .timerCfg slot index freq count => Sys2Proof.Machine.execTimerCfg slot index freq count s
  | .timerUpdate slot => Sys2Proof.Machine.execTimerUpdate slot s
  | .timerValue slot => Sys2Proof.Machine.execTimerValue slot s

end Sys2Proof.Machine
end

