-- ==== Sys2Proof/Machine/Reset.lean ====
section
/-! DEFINITION. Reset (R240, R241): the configuration check of R7 and the state of R39. -/

namespace Sys2Proof.Machine

/-- The contents a configuration gives M: INIT, or CAP zero bytes when it gives none (D29). -/
def initialBytes (c : Configuration) : List Byte :=
  c.init.getD (List.replicate c.params.cap 0)

/-- A slot count is in 1..256 (R7). -/
def legalCount (n : Nat) : Bool := 1 ≤ n && n ≤ 256

/-- A legal configuration (R7). -/
def legalConfiguration (c : Configuration) : Bool :=
  1 ≤ c.params.cap && c.params.cap ≤ 8191 && c.start.toNat < c.params.cap &&
    (initialBytes c).length == c.params.cap &&
    legalCount c.params.numBreg && legalCount c.params.numWreg && legalCount c.params.numTimer

/-- Every piece of state at its value of R39; the ports, the time input and the draw counter are not the block's state
and stay (log entry 6). -/
def State.resetTo (s : State) (c : Configuration) : State :=
  { s with
    params := c.params
    start := c.start
    mem := Memory.ofBytes 0 (initialBytes c)
    bregs := []
    wregs := []
    timers := []
    latch := { faulted := false, cause := 0, info := 0 }
    events := []
    tLast := none }

/-- The block after reset at configuration `c`, with nothing on its ports (R39). -/
def stateAt (c : Configuration) : State := State.reset.resetTo c

/-- The reset input (R240): a configuration that fails R7 is refused. -/
def takeReset (s : State) (c : Configuration) : Result :=
  if legalConfiguration c then .next (s.resetTo c) else .refused .illegalConfiguration

end Sys2Proof.Machine
end

