-- ==== Sys2Proof/Machine/Fetch.lean ====
section
/-! DEFINITION. Taking the host's next input: the decode checks of R214 and the reset input of R240. The block has no
program counter and fetches nothing from its memory (R34, R67). -/

namespace Sys2Proof.Machine

/-- Checks 3 and 4 of R214: a word that is no command raises ILLEGAL_COMMAND with INFO = OP (R75, R76); a halted block
ignores it first (R213). -/
def execIllegal (op : Byte) (s : State) : Result :=
  whenRunning s (raiseFault s .illegalCommand (zextByte op))

/-- One command word from the port: STATUS before the halt check, the halt check before decoding (R214). The halt check
of a decoded command is the first thing its meaning does. -/
def runCommand (w : Command) (s : State) : Result :=
  match decode w with
  | .ok i => exec i s
  | .error e => execIllegal e.op s

/-- The command word now on the command port. -/
def State.commandOnPort (s : State) : Option Command :=
  match s.inputs with
  | .command w :: _ => some w
  | _ => none

/-- The host's next input has been taken. -/
def State.afterInput (s : State) : State := { s with inputs := s.inputs.tail }

/-- The host's next input: a command, a reset, or nothing, and then nothing happens (R8, R186, log entry 9). -/
def takeInput (s : State) : Result :=
  match s.inputs with
  | [] => .next s
  | .command w :: _ => runCommand w s.afterInput
  | .reset c :: _ => takeReset s.afterInput c

/-- `s` with the command word put on the command port as the host's next input. -/
def State.withCommand (s : State) (w : Command) : State := { s with inputs := .command w :: s.inputs }

end Sys2Proof.Machine
end

