-- ==== Sys2Proof/Safety.lean ====
section
/-! DEFINITION. What counts as a safe run, and the terms the claims are stated in: the invariant of the block, the
responses and end states as the spec writes them, the commands' targets, and what a sample and an update do. -/

namespace Sys2Proof.Safety

open Sys2Proof.Machine

/-- Not halted: "a claim about a run takes latch.faulted = 0 as a premise" (R232). -/
def Running (s : State) : Prop := s.latch.faulted = false

/-- A run that has not faulted (R232). -/
def SafeRun (s : State) : Prop := Running s

/-! ### The invariant -/

/-- The parameters and START pass the check of R7 (INIT is used up by the reset). -/
def ParamsLegal (s : State) : Prop :=
  1 ≤ s.params.cap ∧ s.params.cap ≤ 8191 ∧ s.start.toNat < s.params.cap ∧
  (1 ≤ s.params.numBreg ∧ s.params.numBreg ≤ 256) ∧ (1 ≤ s.params.numWreg ∧ s.params.numWreg ≤ 256) ∧
  (1 ≤ s.params.numTimer ∧ s.params.numTimer ≤ 256)

/-- Memory keeps its canonical form and lists only bytes that exist (R21). -/
def MemoryOk (s : State) : Prop :=
  Memory.wf s.mem ∧ ∀ c ∈ s.mem, c.1 < s.params.cap

/-- The slot tables keep their canonical form and list only slots that exist (R20). -/
def SlotsOk (s : State) : Prop :=
  (Table.Sorted s.bregs ∧ ∀ e ∈ s.bregs, e.1 < s.params.numBreg) ∧
  (Table.Sorted s.wregs ∧ ∀ e ∈ s.wregs, e.1 < s.params.numWreg) ∧
  (Table.Sorted s.timers ∧ ∀ e ∈ s.timers, e.1 < s.params.numTimer)

/-- "When cfg = 1, lo != hi always holds" (R27). -/
def WregsOk (s : State) : Prop := ∀ e ∈ s.wregs, e.2.lo ≠ e.2.hi

/-- A constructed timer's frequency is 1 to 65535 (R29), and its baseline is an earlier sample (R181). -/
def TimersOk (s : State) : Prop :=
  ∀ e ∈ s.timers, e.2.freq ≠ 0 ∧ ∃ m, s.tLast = some m ∧ e.2.lastTick ≤ m

/-- The latch holds no fault, or one of the ten causes of R211 (R31). -/
def LatchOk (s : State) : Prop :=
  if s.latch.faulted then
    s.latch.cause ∈ [0x01#8, 0x02#8, 0x03#8, 0x04#8, 0x05#8, 0x06#8, 0x10#8, 0x11#8, 0x12#8, 0x13#8]
  else s.latch.cause = 0 ∧ s.latch.info = 0

/-- Every TICK names a slot that exists and a count that could be decremented (R183, R187). -/
def EventsOk (s : State) : Prop :=
  ∀ e ∈ s.events, e.slot.toNat < s.params.numTimer ∧ e.value ≠ 0

/-- Every response has a status of R81 and zeros in RSP[27:24] (R80), and only an OK one is followed by bytes (R83). -/
def ResponsesOk (s : State) : Prop :=
  ∀ r ∈ s.responses, rspSt r.word ∈ [0#4, 1#4, 2#4] ∧ rspZero r.word = 0 ∧ (r.dump ≠ [] → rspSt r.word = 0)

/-- The invariant of the block. -/
structure Inv (s : State) : Prop where
  params : ParamsLegal s
  mem : MemoryOk s
  slots : SlotsOk s
  wregs : WregsOk s
  timers : TimersOk s
  latch : LatchOk s
  events : EventsOk s
  responses : ResponsesOk s

/-! ### Configurations -/

/-- R7, word for word. -/
def Legal (c : Configuration) : Prop :=
  1 ≤ c.params.cap ∧ c.params.cap ≤ 8191 ∧ c.start.toNat < c.params.cap ∧
  (∀ bytes, c.init = some bytes → bytes.length = c.params.cap) ∧
  (1 ≤ c.params.numBreg ∧ c.params.numBreg ≤ 256) ∧ (1 ≤ c.params.numWreg ∧ c.params.numWreg ≤ 256) ∧
  (1 ≤ c.params.numTimer ∧ c.params.numTimer ≤ 256)

/-- Byte `i` of the initial contents: INIT[i], or zero when the configuration gives no INIT (R39, D29). -/
def initialByte (c : Configuration) (i : Nat) : Byte :=
  match c.init with
  | some bytes => bytes.getD i 0
  | none => 0

/-! ### Responses and end states -/

/-- RSP = ST * 2^28 + CAUSE * 2^16 + DATA (R80). -/
def rspOf (st cause data : Nat) : Rsp := BitVec.ofNat 32 (st * 2 ^ 28 + cause * 2 ^ 16 + data)

/-- `s` with one more response: ST, CAUSE, DATA, and the bytes that follow. Nothing else differs. -/
def answered (s : State) (st cause data : Nat) (dump : List Byte) : State :=
  { s with responses := s.responses ++ [{ word := rspOf st cause data, dump := dump }] }

/-- The command completed: ST = OK, CAUSE = 0, DATA (R80, R82). -/
def okWith (s : State) (data : Nat) : State := answered s 0 0 data []

/-- The command raised a fault (R212): the latch is set, ST = FAULT, CAUSE, DATA = INFO; nothing else differs from
`s`. -/
def faultWith (s : State) (cause info : Nat) : State :=
  answered { s with latch := { faulted := true, cause := BitVec.ofNat 8 cause, info := BitVec.ofNat 16 info } }
    1 cause info []

/-- The position of index `k` in a field of `width` bits under a bit order (R55, R129). -/
def posOf (order : BitOrder) (width k : Nat) : Nat := if order = .lsb0 then k else width - 1 - k

/-- The bit of weight 2^p of a value (R10). -/
def bitOf (v p : Nat) : Nat := v / 2 ^ p % 2

/-! ### What an update does -/

/-- `new` is `old` with the entry of key `k` replaced by `x`. -/
def UpdatedAt {α : Type} (old new : Table α) (k : Nat) (x : α) : Prop :=
  Table.find? new k = some x ∧ ∀ j, j ≠ k → Table.find? new j = Table.find? old j

/-- `m` is the memory of `s` with byte `i` replaced by `v`; every other byte reads as before. -/
def WrittenAt (s : State) (m : Memory) (i : Nat) (v : Byte) : Prop :=
  Memory.read m i = v ∧ ∀ a, a ≠ i → Memory.read m a = s.byteAt a

/-- The time source keeps its duty (R231, H-1): the samples the state names never fall below an earlier one. -/
def TimeInputOk (s : State) : Prop :=
  s.nowIn.Pairwise (· ≤ ·) ∧ ∀ m, s.tLast = some m → ∀ n ∈ s.nowIn, m ≤ n

/-- `n` is a sample of NOW taken in `s`, and `s'` the state after it (R180): at least every earlier sample, T_LAST
afterwards; it is the next one the time input names, or a free draw when the input names none. -/
def Sampled (s : State) (n : Time) (s' : State) : Prop :=
  (∀ m, s.tLast = some m → m ≤ n) ∧
  ((∃ rest, s.nowIn = n :: rest ∧ s' = { s with nowIn := rest, tLast := some n }) ∨
   (s.nowIn = [] ∧ s' = { s with draws := s.draws + 1, tLast := some n }))

/-- The tick condition of R181 on unbounded naturals. -/
def TickDue (r : Timer) (tc : Time) : Prop :=
  1000000000 ≤ (tc.toNat - r.lastTick.toNat) * r.freq.toNat

/-! ### The commands' targets -/

/-- The slot a command names and its kind (R72, R73); memory commands and STATUS have none. -/
def slotOf : Instr → Option (SlotKind × Byte)
  | .status | .memGetByte _ | .memSetByte _ _ | .memGetBit _ | .memSetBit _ _ | .memByteAtStart | .memBitAtStart
  | .memStartOffset | .memDump => none
  | .bregCfg s _ _ | .bregPull s | .bregPush s | .bregGetBit s _ | .bregSetBit s _ _ | .bregValue s
  | .bregSetValue s _ => some (.b, s)
  | .wregCfg s _ _ _ | .wregPull s | .wregPush s | .wregGetBit s _ | .wregSetBit s _ _ | .wregGetComp s _
  | .wregSetComp s _ _ | .wregValue s | .wregSetValue s _ => some (.w, s)
  | .timerCfg s _ _ _ | .timerUpdate s | .timerValue s => some (.t, s)

/-- The three construct commands (R211). -/
def isConstruct : Instr → Bool
  | .bregCfg _ _ _ | .wregCfg _ _ _ _ | .timerCfg _ _ _ _ => true
  | .status | .memGetByte _ | .memSetByte _ _ | .memGetBit _ | .memSetBit _ _ | .memByteAtStart | .memBitAtStart
  | .memStartOffset | .memDump | .bregPull _ | .bregPush _ | .bregGetBit _ _ | .bregSetBit _ _ _ | .bregValue _
  | .bregSetValue _ _ | .wregPull _ | .wregPush _ | .wregGetBit _ _ | .wregSetBit _ _ _ | .wregGetComp _ _
  | .wregSetComp _ _ _ | .wregValue _ | .wregSetValue _ _ | .timerUpdate _ | .timerValue _ => false

/-- NUM_BREG, NUM_WREG or NUM_TIMER (R211). -/
def slotCount (s : State) : SlotKind → Nat
  | .b => s.params.numBreg
  | .w => s.params.numWreg
  | .t => s.params.numTimer

/-- The slot's cfg bit (R24, R27, R29). -/
def constructed (s : State) (kind : SlotKind) (slot : Byte) : Bool :=
  match kind with
  | .b => (s.breg? slot).isSome
  | .w => (s.wreg? slot).isSome
  | .t => (s.timer? slot).isSome

/-- The byte indices a command stores to, by the meaning's own addressing (R102, R104, R132, R152, R183). -/
def storedAt (i : Instr) (s : State) : List Nat :=
  match i with
  | .memSetByte index _ => [index.toNat]
  | .memSetBit bit _ => [bit.toNat / 8]
  | .bregPush slot => ((s.breg? slot).map fun r => [r.idx.toNat]).getD []
  | .wregPush slot => ((s.wreg? slot).map fun r => [r.lo.toNat, r.hi.toNat]).getD []
  | .timerUpdate slot => ((s.timer? slot).map fun r => [r.idx.toNat]).getD []
  | .status | .memGetByte _ | .memGetBit _ | .memByteAtStart | .memBitAtStart | .memStartOffset | .memDump
  | .bregCfg _ _ _ | .bregPull _ | .bregGetBit _ _ | .bregSetBit _ _ _ | .bregValue _ | .bregSetValue _ _
  | .wregCfg _ _ _ _ | .wregPull _ | .wregGetBit _ _ | .wregSetBit _ _ _ | .wregGetComp _ _ | .wregSetComp _ _ _
  | .wregValue _ | .wregSetValue _ _ | .timerCfg _ _ _ _ | .timerValue _ => []

/-- The slot a command may write, with its kind (R25 to R29): a CFG, a PULL, a cache edit, a TIMER_UPDATE. -/
def writtenSlot : Instr → Option (SlotKind × Byte)
  | .bregCfg s _ _ | .bregPull s | .bregSetBit s _ _ | .bregSetValue s _ => some (.b, s)
  | .wregCfg s _ _ _ | .wregPull s | .wregSetBit s _ _ | .wregSetComp s _ _ | .wregSetValue s _ => some (.w, s)
  | .timerCfg s _ _ _ | .timerUpdate s => some (.t, s)
  | .status | .memGetByte _ | .memSetByte _ _ | .memGetBit _ | .memSetBit _ _ | .memByteAtStart | .memBitAtStart
  | .memStartOffset | .memDump | .bregPush _ | .bregGetBit _ _ | .bregValue _ | .wregPush _ | .wregGetBit _ _
  | .wregGetComp _ _ | .wregValue _ | .timerValue _ => none

/-- The commands that may sample NOW (R33, R180). -/
def samplesNow : Instr → Bool
  | .timerCfg _ _ _ _ | .timerUpdate _ => true
  | .status | .memGetByte _ | .memSetByte _ _ | .memGetBit _ | .memSetBit _ _ | .memByteAtStart | .memBitAtStart
  | .memStartOffset | .memDump | .bregCfg _ _ _ | .bregPull _ | .bregPush _ | .bregGetBit _ _ | .bregSetBit _ _ _
  | .bregValue _ | .bregSetValue _ _ | .wregCfg _ _ _ _ | .wregPull _ | .wregPush _ | .wregGetBit _ _
  | .wregSetBit _ _ _ | .wregGetComp _ _ | .wregSetComp _ _ _ | .wregValue _ | .wregSetValue _ _
  | .timerValue _ => false

end Sys2Proof.Safety
end

