-- ==== Sys2Proof/Certificates/Slice0/Obligations.lean ====
section
/-! DEFINITION. The statements for the provers. Each docstring names the rule of spec/ it formalises. -/

open Sys2Proof Sys2Proof.Machine Sys2Proof.Safety

/-! ### Encoding (R70 to R79, R85) -/

/-- Decoding an encoded command gives it back, for every command and every operand (R70, R72, R73, R74). -/
def Obligations.EncodeThenDecodeIsIdentity : Prop :=
  ∀ i : Instr, decode (encode i) = .ok i

/-- The decoder, written from R73 and R74 field by field, agrees with the match and mask words of
spec/opcode_table.json: a word is row m exactly when it matches, and a word that matches no row is rejected (R79). -/
def Obligations.DecodeAgreesWithOpcodeTable : Prop :=
  (∀ row ∈ opcodeTable, ∀ w : Command,
    (w &&& row.2.2 = row.2.1 ↔ ∃ i, decode w = .ok i ∧ i.mnemonic = row.1)) ∧
  (∀ w : Command, (∀ row ∈ opcodeTable, w &&& row.2.2 ≠ row.2.1) → ∃ e, decode w = .error e)

/-- R75: every OP value not in R73 raises ILLEGAL_COMMAND with INFO = OP and has no other effect. -/
def Obligations.IllegalOpcodeRaisesIllegalCommand : Prop :=
  ∀ (s : State) (w : Command), Running s →
    ((opField w).toNat = 0 ∨ (0x02 ≤ (opField w).toNat ∧ (opField w).toNat ≤ 0x0F) ∨
     (0x18 ≤ (opField w).toNat ∧ (opField w).toNat ≤ 0x1F) ∨ (0x27 ≤ (opField w).toNat ∧ (opField w).toNat ≤ 0x2F) ∨
     (0x39 ≤ (opField w).toNat ∧ (opField w).toNat ≤ 0x3F) ∨ 0x43 ≤ (opField w).toNat) →
    step (s.withCommand w) = .next (faultWith s 0x10 (opField w).toNat)

/-- R76: a legal OP other than STATUS with a nonzero must-be-zero bit (a bit that its table row's mask fixes and that
differs) raises ILLEGAL_COMMAND with INFO = OP and has no other effect. -/
def Obligations.ReservedBitRaisesIllegalCommand : Prop :=
  ∀ (s : State) (w : Command) (row : Mnemonic × Command × Command), Running s → row ∈ opcodeTable →
    row.1 ≠ .status → opField w = opField row.2.1 → w &&& row.2.2 ≠ row.2.1 →
    step (s.withCommand w) = .next (faultWith s 0x10 (opField w).toNat)

/-- R77: every word with OP = 0x01 is STATUS. -/
def Obligations.StatusIgnoresItsOtherBits : Prop :=
  ∀ w : Command, opField w = 0x01 → decode w = .ok .status

/-- A few words of the spec's examples decode to the commands they are given for. -/
def Obligations.WordsOfTheSpecDecode : Prop :=
  decode 0x0100000000000000 = .ok .status ∧
  decode 0x11000004000000FF = .ok (.memSetByte 4 0xFF) ∧
  decode 0x1300002100000001 = .ok (.memSetBit 33 true) ∧
  decode 0x2301000000070000 = .ok (.bregGetBit 1 7) ∧
  decode 0x3001000200C8ABCD = .ok (.wregCfg 1 2 200 0xABCD) ∧
  decode 0x36000000000100CD = .ok (.wregSetComp 0 1 0xCD) ∧
  decode 0x40030009FFFF00FF = .ok (.timerCfg 3 9 65535 255) ∧
  decode 0x4101000000000000 = .ok (.timerUpdate 1)

/-- R85: the written form of every command is accepted by the assembler and stands for that command. -/
def Obligations.WrittenFormAssembles : Prop :=
  ∀ i : Instr, (writtenOf i).wellFormed = true ∧ assemble (writtenOf i) = some i

/-- R85: "An assembler refuses an operand that does not fit its field and a slot letter that does not match the
mnemonic's kind", at whatever place the operand stands. -/
def Obligations.AssemblerRefusesBadOperand : Prop :=
  ∀ (w : Written) (k : Nat) (f : OperandForm) (o : Operand),
    w.mnemonic.form[k]? = some f → w.operands[k]? = some o →
    ((∃ width n, f = .num width ∧ o = .num n ∧ 2 ^ width ≤ n) ∨
     (∃ kind n, f = .slot kind ∧ o = .slot kind n ∧ 256 ≤ n) ∨
     (∃ kind kind' n, f = .slot kind ∧ o = .slot kind' n ∧ kind ≠ kind')) →
    assemble w = none

/-! ### Steps and reset -/

/-- When the word on the command port decodes to `i`, a step is the meaning of `i` on the state with that word taken
from the port, and nothing else is added around it; so for the table's words too. -/
def Obligations.StepRunsDecodedCommand : Prop :=
  (∀ (s : State) (w : Command) (i : Instr), s.commandOnPort = some w → decode w = .ok i →
    step s = exec i { s with inputs := s.inputs.tail }) ∧
  (∀ (s : State) (nbits w : Nat) (i : Instr), decodeTableWord nbits w = some i →
    step (s.withFetchWord nbits w) = exec i s)

/-- The model's choice (log entry 9): with no input waiting a step changes nothing ("nothing in the block runs on its
own", R8; "between updates nothing happens", R186). -/
def Obligations.NothingHappensWithoutInput : Prop :=
  ∀ s : State, s.inputs = [] → step s = .next s

/-- R240 with R7 and R39: a legal configuration puts every piece of state at its reset value, in one step; one that
fails the check is refused. -/
def Obligations.ResetGivesResetValues : Prop :=
  ∀ (s : State) (c : Configuration) (rest : List HostInput), s.inputs = .reset c :: rest →
    (Legal c → ∃ t, step s = .next t ∧ t.params = c.params ∧ t.start = c.start ∧
      (∀ i, i < c.params.cap → t.byteAt i = initialByte c i) ∧
      (∀ slot, t.breg? slot = none ∧ t.wreg? slot = none ∧ t.timer? slot = none) ∧
      t.latch = { faulted := false, cause := 0, info := 0 } ∧ t.events = [] ∧ t.tLast = none) ∧
    (¬ Legal c → step s = .refused .illegalConfiguration)

/-- R243: the documented default (CAP 512, START 0x200) is refused, whatever the rest of the configuration; a legal
configuration that gives no INIT starts with every byte that exists zero. -/
def Obligations.DocumentedDefaultIsRefused : Prop :=
  (∀ (s : State) (c : Configuration) (rest : List HostInput), s.inputs = .reset c :: rest →
    c.params.cap = 512 → c.start = 0x200 → step s = .refused .illegalConfiguration) ∧
  (∀ (s : State) (c : Configuration) (rest : List HostInput), s.inputs = .reset c :: rest → Legal c → c.init = none →
    ∃ t, step s = .next t ∧ ∀ i, i < c.params.cap → t.byteAt i = 0)

/-! ### Whole-machine rules -/

/-- The invariant holds at the model's reset state (which rests on log entry 1 for its configuration). -/
def Obligations.InvHoldsAtReset : Prop := Inv State.reset

/-- The invariant holds at the reset state of EVERY legal configuration (R7, R39). -/
def Obligations.InvHoldsAtEveryReset : Prop :=
  ∀ c : Configuration, Legal c → Inv (stateAt c)

/-- Every step keeps the invariant, from every state that has it: the memory's and the slot tables' canonical form and
bounds (R20, R21), distinct word-register indices (R27), timer frequencies and baselines (R29, R181), the latch's causes
(R211), the responses' form (R80, R81). -/
def Obligations.EveryStepKeepsInv : Prop :=
  ∀ s t : State, Inv s → step s = .next t → Inv t

/-- R213: a halted block executes only STATUS; every other word, legal or not, changes nothing and is answered FAULTED
with the latch. -/
def Obligations.HaltedBlockOnlyAnswers : Prop :=
  ∀ (s : State) (w : Command), s.latch.faulted = true →
    (opField w ≠ 0x01 →
      step (s.withCommand w) = .next (answered s 2 s.latch.cause.toNat s.latch.info.toNat [])) ∧
    (opField w = 0x01 →
      step (s.withCommand w) = .next (answered s 0 s.latch.cause.toNat s.latch.info.toNat []))

/-- R241: only a reset clears the latch or changes CAP, START or the parameters. A step that takes no reset input
leaves CAP, START and the parameters, and a set latch as it is: the first fault is the one kept. A reset with a legal
configuration is a way out of the halted state, and sets CAP, START and the parameters. -/
def Obligations.OnlyResetClearsLatchAndParameters : Prop :=
  (∀ s t : State, step s = .next t → (∀ c rest, s.inputs ≠ .reset c :: rest) →
    t.params = s.params ∧ t.start = s.start ∧ (s.latch.faulted = true → t.latch = s.latch)) ∧
  (∀ (s : State) (c : Configuration) (rest : List HostInput), s.inputs = .reset c :: rest → Legal c →
    ∃ t, step s = .next t ∧ t.latch.faulted = false ∧ t.params = c.params ∧ t.start = c.start)

/-- R81: every command word yields one response, whose ST says what happened. OK: no fault was raised. FAULT: this
command raised the fault now in the latch. FAULTED: the block was already halted and the command changed nothing. -/
def Obligations.EveryCommandYieldsOneResponse : Prop :=
  ∀ (s t : State) (w : Command), step (s.withCommand w) = .next t →
    ∃ r : Response, t.responses = s.responses ++ [r] ∧ rspZero r.word = 0 ∧
      ((rspSt r.word = 0 ∧ t.latch = s.latch) ∨
       (rspSt r.word = 1 ∧ s.latch.faulted = false ∧
         t.latch = { faulted := true, cause := rspCause r.word, info := rspData r.word }) ∨
       (rspSt r.word = 2 ∧ s.latch.faulted = true ∧ rspCause r.word = s.latch.cause ∧
         rspData r.word = s.latch.info ∧ t = { s with responses := s.responses ++ [r] }))

/-- The memory frame of every command (R21, R137, R161): a byte outside the command's stored bytes reads as before. The
commands that store are MEM_SET_BYTE, MEM_SET_BIT, BREG_PUSH, WREG_PUSH and TIMER_UPDATE; every other one leaves every
byte. -/
def Obligations.MemoryFrameOfEveryCommand : Prop :=
  ∀ (i : Instr) (s t : State) (a : Nat), exec i s = .next t → a ∉ storedAt i s → t.byteAt a = s.byteAt a

/-- The slot frame of every command (R25 to R29, R190): a slot that is not the one the command writes holds what it
held. -/
def Obligations.SlotFrameOfEveryCommand : Prop :=
  ∀ (i : Instr) (s t : State) (slot : Byte), exec i s = .next t →
    (writtenSlot i ≠ some (.b, slot) → t.breg? slot = s.breg? slot) ∧
    (writtenSlot i ≠ some (.w, slot) → t.wreg? slot = s.wreg? slot) ∧
    (writtenSlot i ≠ some (.t, slot) → t.timer? slot = s.timer? slot)

/-- Slots are constructed, and bound indices and frequencies written, by the CFG commands only (R24, R25, R27, R29):
every other command leaves a constructed slot constructed, with its indices and frequency, and an unconstructed slot
unconstructed. -/
def Obligations.BindingsWrittenOnlyByConstruct : Prop :=
  ∀ (i : Instr) (s t : State) (slot : Byte), exec i s = .next t → isConstruct i = false →
    (∀ r, s.breg? slot = some r → ∃ r', t.breg? slot = some r' ∧ r'.idx = r.idx) ∧
    (∀ r, s.wreg? slot = some r → ∃ r', t.wreg? slot = some r' ∧ r'.lo = r.lo ∧ r'.hi = r.hi) ∧
    (∀ r, s.timer? slot = some r → ∃ r', t.timer? slot = some r' ∧ r'.idx = r.idx ∧ r'.freq = r.freq) ∧
    (s.breg? slot = none → t.breg? slot = none) ∧ (s.wreg? slot = none → t.wreg? slot = none) ∧
    (s.timer? slot = none → t.timer? slot = none)

/-- What no command touches but the ones named: parameters, START and the waiting inputs by none; the event output by
TIMER_UPDATE only (R32); T_LAST and the time input by the commands that sample NOW only (R33, R180). -/
def Obligations.FrameOfTheRestOfTheState : Prop :=
  ∀ (i : Instr) (s t : State), exec i s = .next t →
    t.params = s.params ∧ t.start = s.start ∧ t.inputs = s.inputs ∧
    ((∀ slot, i ≠ .timerUpdate slot) → t.events = s.events) ∧
    (samplesNow i = false → t.tLast = s.tLast ∧ t.nowIn = s.nowIn ∧ t.draws = s.draws)

/-- NOW never goes back (R180). After any command T_LAST is at least what it was. And wherever a command samples NOW
(the baseline of TIMER_CFG, the check sample and the second sample of TIMER_UPDATE, all through `sampleNow`) and goes on
to a next state, what it went on with is a sample at least every earlier one, which is T_LAST from then on. -/
def Obligations.ClockNeverGoesBack : Prop :=
  (∀ (i : Instr) (s t : State) (m : Time), exec i s = .next t → s.tLast = some m →
    ∃ m', t.tLast = some m' ∧ m ≤ m') ∧
  (∀ (s t : State) (k : Time → State → Result), sampleNow s k = .next t →
    ∃ n s', Sampled s n s' ∧ k n s' = .next t)

/-- The model's reading of H-1 and R231 (log entry 4): a time source that goes back has no move. A sample below an
earlier one stops TIMER_CFG at its baseline, and TIMER_UPDATE at its check sample and, where the tick is due, at the
second sample. -/
def Obligations.TimeGoingBackHasNoMove : Prop :=
  (∀ (s : State) (slot : Byte) (index freq : Half) (count : Byte) (m n : Time) (rest : List Time), Running s →
    slot.toNat < s.params.numTimer → freq ≠ 0 → s.tLast = some m → s.nowIn = n :: rest → n < m →
    exec (.timerCfg slot index freq count) s = .fault .nowBelowEarlierSample) ∧
  (∀ (s : State) (slot : Byte) (r : Timer) (m : Time), Running s → slot.toNat < s.params.numTimer →
    s.timer? slot = some r → r.idx.toNat < s.params.cap → s.byteAt r.idx.toNat ≠ 0 → s.tLast = some m →
    (∀ (n : Time) (rest : List Time), s.nowIn = n :: rest → n < m →
      exec (.timerUpdate slot) s = .fault .nowBelowEarlierSample) ∧
    (∀ (tc tr : Time) (rest : List Time), s.nowIn = tc :: tr :: rest → r.lastTick ≤ m → m ≤ tc → TickDue r tc →
      tr < tc → exec (.timerUpdate slot) s = .fault .nowBelowEarlierSample))

/-- Check 5 of R214: SLOT at or above its kind's count raises SLOT_RANGE with INFO = SLOT, for every register and timer
command (R211). -/
def Obligations.SlotOutOfRangeRaisesSlotRange : Prop :=
  ∀ (i : Instr) (s : State) (kind : SlotKind) (slot : Byte), Running s → slotOf i = some (kind, slot) →
    slotCount s kind ≤ slot.toNat → exec i s = .next (faultWith s 0x11 slot.toNat)

/-- Check 6 of R214: a command but CFG on an unconstructed slot raises SLOT_UNCONFIGURED with INFO = SLOT (R38,
R211). -/
def Obligations.UnconstructedSlotRaisesSlotUnconfigured : Prop :=
  ∀ (i : Instr) (s : State) (kind : SlotKind) (slot : Byte), Running s → slotOf i = some (kind, slot) →
    isConstruct i = false → slot.toNat < slotCount s kind → constructed s kind slot = false →
    exec i s = .next (faultWith s 0x12 slot.toNat)

/-! ### The memory buffer (spec/40_memory_buffer.md) -/

/-- R101. -/
def Obligations.MemGetByteReadsOrFaults : Prop :=
  ∀ (s : State) (i : Half), Running s →
    decode (commandWord 0x10 0 i 0 0) = .ok (.memGetByte i) ∧
    (i.toNat < s.params.cap → exec (.memGetByte i) s = .next (okWith s (s.byteAt i.toNat).toNat)) ∧
    (s.params.cap ≤ i.toNat → exec (.memGetByte i) s = .next (faultWith s 0x01 i.toNat))

/-- R102. -/
def Obligations.MemSetByteWritesOrFaults : Prop :=
  ∀ (s : State) (i : Half) (v : Byte), Running s →
    decode (commandWord 0x11 0 i 0 (v.setWidth 16)) = .ok (.memSetByte i v) ∧
    (i.toNat < s.params.cap → ∃ m, exec (.memSetByte i v) s = .next (okWith { s with mem := m } 0) ∧
      WrittenAt s m i.toNat v) ∧
    (s.params.cap ≤ i.toNat → exec (.memSetByte i v) s = .next (faultWith s 0x01 i.toNat))

/-- R103 with R52 to R55: bit b is the bit of weight 2^p of byte b / 8, p by MEM_BIT_ORDER; b = CAP*8 raises
BIT_PAST_END, b > CAP*8 raises OOR_MEM_BIT. -/
def Obligations.MemGetBitReadsOrFaults : Prop :=
  ∀ (s : State) (b : Half), Running s →
    decode (commandWord 0x12 0 b 0 0) = .ok (.memGetBit b) ∧
    (b.toNat < s.params.cap * 8 → exec (.memGetBit b) s =
      .next (okWith s (bitOf (s.byteAt (b.toNat / 8)).toNat (posOf s.params.memBitOrder 8 (b.toNat % 8))))) ∧
    (b.toNat = s.params.cap * 8 → exec (.memGetBit b) s = .next (faultWith s 0x06 b.toNat)) ∧
    (s.params.cap * 8 < b.toNat → exec (.memGetBit b) s = .next (faultWith s 0x02 b.toNat))

/-- R104 with R53 to R55: only the addressed bit of byte b / 8 changes, and becomes `on`. -/
def Obligations.MemSetBitWritesOneBitOrFaults : Prop :=
  ∀ (s : State) (b : Half) (on : Bool), Running s →
    decode (commandWord 0x13 0 b 0 (if on then 1 else 0)) = .ok (.memSetBit b on) ∧
    (b.toNat < s.params.cap * 8 → ∃ m v, exec (.memSetBit b on) s = .next (okWith { s with mem := m } 0) ∧
      WrittenAt s m (b.toNat / 8) v ∧
      bitOf v.toNat (posOf s.params.memBitOrder 8 (b.toNat % 8)) = on.toNat ∧
      ∀ q, q < 8 → q ≠ posOf s.params.memBitOrder 8 (b.toNat % 8) →
        bitOf v.toNat q = bitOf (s.byteAt (b.toNat / 8)).toNat q) ∧
    (b.toNat = s.params.cap * 8 → exec (.memSetBit b on) s = .next (faultWith s 0x06 b.toNat)) ∧
    (s.params.cap * 8 < b.toNat → exec (.memSetBit b on) s = .next (faultWith s 0x02 b.toNat))

/-- R105, R106, R107, in every state whose START is below CAP, as it is in a legal configuration (R7): the byte at
START, bit index 0 of byte START, and START itself. -/
def Obligations.StartCommandsReadAtStart : Prop :=
  ∀ s : State, Running s → s.start.toNat < s.params.cap →
    (decode (commandWord 0x14 0 0 0 0) = .ok .memByteAtStart ∧
     exec .memByteAtStart s = .next (okWith s (s.byteAt s.start.toNat).toNat)) ∧
    (decode (commandWord 0x15 0 0 0 0) = .ok .memBitAtStart ∧
     exec .memBitAtStart s =
       .next (okWith s (bitOf (s.byteAt s.start.toNat).toNat (posOf s.params.memBitOrder 8 0)))) ∧
    (decode (commandWord 0x16 0 0 0 0) = .ok .memStartOffset ∧
     exec .memStartOffset s = .next (okWith s s.start.toNat))

/-- R108 with R83: DATA = CAP, followed by exactly CAP bytes, M[0] first; nothing changes. CAP has 16 bits, as in every
legal configuration. -/
def Obligations.MemDumpGivesEveryByte : Prop :=
  ∀ s : State, Running s → s.params.cap ≤ 8191 →
    decode (commandWord 0x17 0 0 0 0) = .ok .memDump ∧
    ∃ bytes : List Byte, exec .memDump s = .next (answered s 0 0 s.params.cap bytes) ∧
      bytes.length = s.params.cap ∧ ∀ i, i < s.params.cap → bytes[i]? = some (s.byteAt i)

/-- R200: STATUS answers the latch in every state, halted or not, and changes nothing. -/
def Obligations.StatusAnswersTheLatch : Prop :=
  ∀ (s : State) (slot : Byte) (a b c : Half),
    decode (commandWord 0x01 slot a b c) = .ok .status ∧
    exec .status s = .next (answered s 0 s.latch.cause.toNat s.latch.info.toNat [])

/-! ### The byte register (spec/41_byte_register.md) -/

/-- R130: the slot is constructed, or replaced, with the bound index, which is not checked, and the value. -/
def Obligations.BregCfgConstructs : Prop :=
  ∀ (s : State) (slot : Byte) (index : Half) (v : Byte), Running s → slot.toNat < s.params.numBreg →
    decode (commandWord 0x20 slot index 0 (v.setWidth 16)) = .ok (.bregCfg slot index v) ∧
    ∃ tab, exec (.bregCfg slot index v) s = .next (okWith { s with bregs := tab } 0) ∧
      UpdatedAt s.bregs tab slot.toNat { idx := index, cache := v }

/-- R131. -/
def Obligations.BregPullLoadsCacheOrFaults : Prop :=
  ∀ (s : State) (slot : Byte) (r : ByteReg), Running s → slot.toNat < s.params.numBreg → s.breg? slot = some r →
    decode (commandWord 0x21 slot 0 0 0) = .ok (.bregPull slot) ∧
    (r.idx.toNat < s.params.cap → ∃ tab, exec (.bregPull slot) s = .next (okWith { s with bregs := tab } 0) ∧
      UpdatedAt s.bregs tab slot.toNat { idx := r.idx, cache := s.byteAt r.idx.toNat }) ∧
    (s.params.cap ≤ r.idx.toNat → exec (.bregPull slot) s = .next (faultWith s 0x01 r.idx.toNat))

/-- R132. -/
def Obligations.BregPushStoresCacheOrFaults : Prop :=
  ∀ (s : State) (slot : Byte) (r : ByteReg), Running s → slot.toNat < s.params.numBreg → s.breg? slot = some r →
    decode (commandWord 0x22 slot 0 0 0) = .ok (.bregPush slot) ∧
    (r.idx.toNat < s.params.cap → ∃ m, exec (.bregPush slot) s = .next (okWith { s with mem := m } 0) ∧
      WrittenAt s m r.idx.toNat r.cache) ∧
    (s.params.cap ≤ r.idx.toNat → exec (.bregPush slot) s = .next (faultWith s 0x01 r.idx.toNat))

/-- R133 with R129. -/
def Obligations.BregGetBitReadsCacheOrFaults : Prop :=
  ∀ (s : State) (slot : Byte) (i : Half) (r : ByteReg), Running s → slot.toNat < s.params.numBreg →
    s.breg? slot = some r →
    decode (commandWord 0x23 slot 0 i 0) = .ok (.bregGetBit slot i) ∧
    (i.toNat < 8 → exec (.bregGetBit slot i) s =
      .next (okWith s (bitOf r.cache.toNat (posOf s.params.regBitOrder 8 i.toNat)))) ∧
    (8 ≤ i.toNat → exec (.bregGetBit slot i) s = .next (faultWith s 0x03 i.toNat))

/-- R134 with R129: only the named cache bit changes, and becomes `on`; memory is not written. -/
def Obligations.BregSetBitEditsCacheOrFaults : Prop :=
  ∀ (s : State) (slot : Byte) (i : Half) (on : Bool) (r : ByteReg), Running s → slot.toNat < s.params.numBreg →
    s.breg? slot = some r →
    decode (commandWord 0x24 slot 0 i (if on then 1 else 0)) = .ok (.bregSetBit slot i on) ∧
    (i.toNat < 8 → ∃ tab v, exec (.bregSetBit slot i on) s = .next (okWith { s with bregs := tab } 0) ∧
      UpdatedAt s.bregs tab slot.toNat { idx := r.idx, cache := v } ∧
      bitOf v.toNat (posOf s.params.regBitOrder 8 i.toNat) = on.toNat ∧
      ∀ q, q < 8 → q ≠ posOf s.params.regBitOrder 8 i.toNat → bitOf v.toNat q = bitOf r.cache.toNat q) ∧
    (8 ≤ i.toNat → exec (.bregSetBit slot i on) s = .next (faultWith s 0x03 i.toNat))

/-- R135 and R136: the cache is read, and is replaced, with no memory interaction. -/
def Obligations.BregValueCommandsUseCacheOnly : Prop :=
  ∀ (s : State) (slot : Byte) (v : Byte) (r : ByteReg), Running s → slot.toNat < s.params.numBreg →
    s.breg? slot = some r →
    (decode (commandWord 0x25 slot 0 0 0) = .ok (.bregValue slot) ∧
     exec (.bregValue slot) s = .next (okWith s r.cache.toNat)) ∧
    (decode (commandWord 0x26 slot 0 0 (v.setWidth 16)) = .ok (.bregSetValue slot v) ∧
     ∃ tab, exec (.bregSetValue slot v) s = .next (okWith { s with bregs := tab } 0) ∧
       UpdatedAt s.bregs tab slot.toNat { idx := r.idx, cache := v })

/-! ### The word register (spec/42_word_register.md) -/

/-- R150 and R160: low = high raises CONSTRUCTION with INFO = low, whatever the value and CAP; any other pair
constructs. -/
def Obligations.WregCfgConstructsOrFaults : Prop :=
  ∀ (s : State) (slot : Byte) (low high v : Half), Running s → slot.toNat < s.params.numWreg →
    decode (commandWord 0x30 slot low high v) = .ok (.wregCfg slot low high v) ∧
    (low ≠ high → ∃ tab, exec (.wregCfg slot low high v) s = .next (okWith { s with wregs := tab } 0) ∧
      UpdatedAt s.wregs tab slot.toNat { lo := low, hi := high, cache := v }) ∧
    (low = high → exec (.wregCfg slot low high v) s = .next (faultWith s 0x05 low.toNat))

/-- R151 with R56: the byte at lo is the most significant one; lo is checked before hi; a fault leaves the cache. -/
def Obligations.WregPullComposesOrFaults : Prop :=
  ∀ (s : State) (slot : Byte) (r : WordReg), Running s → slot.toNat < s.params.numWreg → s.wreg? slot = some r →
    decode (commandWord 0x31 slot 0 0 0) = .ok (.wregPull slot) ∧
    (r.lo.toNat < s.params.cap → r.hi.toNat < s.params.cap →
      ∃ tab v, exec (.wregPull slot) s = .next (okWith { s with wregs := tab } 0) ∧
        UpdatedAt s.wregs tab slot.toNat { lo := r.lo, hi := r.hi, cache := v } ∧
        v.toNat = (s.byteAt r.lo.toNat).toNat * 256 + (s.byteAt r.hi.toNat).toNat) ∧
    (s.params.cap ≤ r.lo.toNat → exec (.wregPull slot) s = .next (faultWith s 0x01 r.lo.toNat)) ∧
    (r.lo.toNat < s.params.cap → s.params.cap ≤ r.hi.toNat →
      exec (.wregPull slot) s = .next (faultWith s 0x01 r.hi.toNat))

/-- R152, with the partial push of R252: value[15:8] goes to lo, then value[7:0] to hi; when hi faults, the write to lo
stays. The two indices of a constructed slot differ (R27). -/
def Obligations.WregPushDecomposesOrFaults : Prop :=
  ∀ (s : State) (slot : Byte) (r : WordReg), Running s → slot.toNat < s.params.numWreg → s.wreg? slot = some r →
    r.lo ≠ r.hi →
    decode (commandWord 0x32 slot 0 0 0) = .ok (.wregPush slot) ∧
    (r.lo.toNat < s.params.cap → r.hi.toNat < s.params.cap →
      ∃ m, exec (.wregPush slot) s = .next (okWith { s with mem := m } 0) ∧
        (Memory.read m r.lo.toNat).toNat = r.cache.toNat / 256 ∧
        (Memory.read m r.hi.toNat).toNat = r.cache.toNat % 256 ∧
        ∀ a, a ≠ r.lo.toNat → a ≠ r.hi.toNat → Memory.read m a = s.byteAt a) ∧
    (s.params.cap ≤ r.lo.toNat → exec (.wregPush slot) s = .next (faultWith s 0x01 r.lo.toNat)) ∧
    (r.lo.toNat < s.params.cap → s.params.cap ≤ r.hi.toNat →
      ∃ m v, exec (.wregPush slot) s = .next (faultWith { s with mem := m } 0x01 r.hi.toNat) ∧
        WrittenAt s m r.lo.toNat v ∧ v.toNat = r.cache.toNat / 256)

/-- R153 with R129. -/
def Obligations.WregGetBitReadsCacheOrFaults : Prop :=
  ∀ (s : State) (slot : Byte) (i : Half) (r : WordReg), Running s → slot.toNat < s.params.numWreg →
    s.wreg? slot = some r →
    decode (commandWord 0x33 slot 0 i 0) = .ok (.wregGetBit slot i) ∧
    (i.toNat < 16 → exec (.wregGetBit slot i) s =
      .next (okWith s (bitOf r.cache.toNat (posOf s.params.regBitOrder 16 i.toNat)))) ∧
    (16 ≤ i.toNat → exec (.wregGetBit slot i) s = .next (faultWith s 0x03 i.toNat))

/-- R154 with R129: only the named cache bit changes, and becomes `on`; memory is not written. -/
def Obligations.WregSetBitEditsCacheOrFaults : Prop :=
  ∀ (s : State) (slot : Byte) (i : Half) (on : Bool) (r : WordReg), Running s → slot.toNat < s.params.numWreg →
    s.wreg? slot = some r →
    decode (commandWord 0x34 slot 0 i (if on then 1 else 0)) = .ok (.wregSetBit slot i on) ∧
    (i.toNat < 16 → ∃ tab v, exec (.wregSetBit slot i on) s = .next (okWith { s with wregs := tab } 0) ∧
      UpdatedAt s.wregs tab slot.toNat { lo := r.lo, hi := r.hi, cache := v } ∧
      bitOf v.toNat (posOf s.params.regBitOrder 16 i.toNat) = on.toNat ∧
      ∀ q, q < 16 → q ≠ posOf s.params.regBitOrder 16 i.toNat → bitOf v.toNat q = bitOf r.cache.toNat q) ∧
    (16 ≤ i.toNat → exec (.wregSetBit slot i on) s = .next (faultWith s 0x03 i.toNat))

/-- R155: component 0 is cache[15:8], component 1 is cache[7:0]. -/
def Obligations.WregGetCompReadsByteOrFaults : Prop :=
  ∀ (s : State) (slot : Byte) (i : Half) (r : WordReg), Running s → slot.toNat < s.params.numWreg →
    s.wreg? slot = some r →
    decode (commandWord 0x35 slot 0 i 0) = .ok (.wregGetComp slot i) ∧
    (i = 0 → exec (.wregGetComp slot i) s = .next (okWith s (r.cache.toNat / 256))) ∧
    (i = 1 → exec (.wregGetComp slot i) s = .next (okWith s (r.cache.toNat % 256))) ∧
    (2 ≤ i.toNat → exec (.wregGetComp slot i) s = .next (faultWith s 0x04 i.toNat))

/-- R156: one component is written, the other is unchanged; memory is not written. -/
def Obligations.WregSetCompWritesByteOrFaults : Prop :=
  ∀ (s : State) (slot : Byte) (i : Half) (x : Byte) (r : WordReg), Running s → slot.toNat < s.params.numWreg →
    s.wreg? slot = some r →
    decode (commandWord 0x36 slot 0 i (x.setWidth 16)) = .ok (.wregSetComp slot i x) ∧
    (i.toNat < 2 → ∃ tab v, exec (.wregSetComp slot i x) s = .next (okWith { s with wregs := tab } 0) ∧
      UpdatedAt s.wregs tab slot.toNat { lo := r.lo, hi := r.hi, cache := v } ∧
      (i = 0 → v.toNat = x.toNat * 256 + r.cache.toNat % 256) ∧
      (i = 1 → v.toNat = r.cache.toNat / 256 * 256 + x.toNat)) ∧
    (2 ≤ i.toNat → exec (.wregSetComp slot i x) s = .next (faultWith s 0x04 i.toNat))

/-- R157 and R158: the cache is read, and is replaced; memory is not written. -/
def Obligations.WregValueCommandsUseCacheOnly : Prop :=
  ∀ (s : State) (slot : Byte) (v : Half) (r : WordReg), Running s → slot.toNat < s.params.numWreg →
    s.wreg? slot = some r →
    (decode (commandWord 0x37 slot 0 0 0) = .ok (.wregValue slot) ∧
     exec (.wregValue slot) s = .next (okWith s r.cache.toNat)) ∧
    (decode (commandWord 0x38 slot 0 0 v) = .ok (.wregSetValue slot v) ∧
     ∃ tab, exec (.wregSetValue slot v) s = .next (okWith { s with wregs := tab } 0) ∧
       UpdatedAt s.wregs tab slot.toNat { lo := r.lo, hi := r.hi, cache := v })

/-! ### The timer (spec/43_timer.md) -/

/-- R182: frequency 0 raises TIMER_FREQ_ZERO with no sample taken and the slot unchanged; otherwise the slot is
constructed, or replaced, with the sample taken as its baseline. The time source keeps its duty (R231). -/
def Obligations.TimerCfgConstructsOrFaults : Prop :=
  ∀ (s : State) (slot : Byte) (index freq : Half) (count : Byte), Running s → slot.toNat < s.params.numTimer →
    decode (commandWord 0x40 slot index freq (count.setWidth 16)) = .ok (.timerCfg slot index freq count) ∧
    (freq = 0 → exec (.timerCfg slot index freq count) s = .next (faultWith s 0x13 0)) ∧
    (freq ≠ 0 → TimeInputOk s → ∃ t0 s' tab, Sampled s t0 s' ∧
      exec (.timerCfg slot index freq count) s = .next (okWith { s' with timers := tab } 0) ∧
      UpdatedAt s.timers tab slot.toNat { idx := index, cache := count, freq := freq, lastTick := t0 })

/-- R183 steps 1 and 2, and R192: a bound index at or above CAP faults before anything changes; a pulled 0 answers 0,
samples no NOW, emits no TICK and changes nothing but the cache, which becomes 0. -/
def Obligations.TimerUpdateStopsAtZeroOrFaults : Prop :=
  ∀ (s : State) (slot : Byte) (r : Timer), Running s → slot.toNat < s.params.numTimer → s.timer? slot = some r →
    decode (commandWord 0x41 slot 0 0 0) = .ok (.timerUpdate slot) ∧
    (r.idx.toNat < s.params.cap → s.byteAt r.idx.toNat = 0 →
      ∃ tab, exec (.timerUpdate slot) s = .next (okWith { s with timers := tab } 0) ∧
        UpdatedAt s.timers tab slot.toNat { r with cache := 0 }) ∧
    (s.params.cap ≤ r.idx.toNat → exec (.timerUpdate slot) s = .next (faultWith s 0x01 r.idx.toNat))

/-- R183 steps 3 to 5 with R181 and R187: on a nonzero count v a check sample tc is taken. If the tick is due, one TICK
with v and the elapsed time is emitted, a second sample tr becomes the baseline, cache and memory become v - 1, and the
answer is 3; if not, the cache becomes v, memory and baseline stay, and the answer is 1. The baseline is an earlier
sample, as the invariant says. -/
def Obligations.TimerUpdateTicksWhenDue : Prop :=
  ∀ (s : State) (slot : Byte) (r : Timer) (m : Time), Running s → slot.toNat < s.params.numTimer →
    s.timer? slot = some r → r.idx.toNat < s.params.cap → s.byteAt r.idx.toNat ≠ 0 → TimeInputOk s →
    s.tLast = some m → r.lastTick ≤ m →
    ∃ tc s1, Sampled s tc s1 ∧
      (¬ TickDue r tc → ∃ tab, exec (.timerUpdate slot) s = .next (okWith { s1 with timers := tab } 1) ∧
        UpdatedAt s.timers tab slot.toNat { r with cache := s.byteAt r.idx.toNat }) ∧
      (TickDue r tc → ∃ tr s2 tab mem' v', Sampled s1 tr s2 ∧
        exec (.timerUpdate slot) s = .next (okWith
          { s2 with
            timers := tab
            mem := mem'
            events := s.events ++
              [{ slot := slot, value := s.byteAt r.idx.toNat,
                 elapsed := BitVec.ofNat 64 (tc.toNat - r.lastTick.toNat) }] } 3) ∧
        UpdatedAt s.timers tab slot.toNat { r with cache := v', lastTick := tr } ∧
        WrittenAt s mem' r.idx.toNat v' ∧ v'.toNat = (s.byteAt r.idx.toNat).toNat - 1)

/-- R184: the cache is read, with no pull and no sample. -/
def Obligations.TimerValueReadsCacheOnly : Prop :=
  ∀ (s : State) (slot : Byte) (r : Timer), Running s → slot.toNat < s.params.numTimer → s.timer? slot = some r →
    decode (commandWord 0x42 slot 0 0 0) = .ok (.timerValue slot) ∧
    exec (.timerValue slot) s = .next (okWith s r.cache.toNat)

/-- R187, R188 and R193: a TIMER_UPDATE either emits nothing and leaves every byte of memory, or emits exactly one TICK
with the count before the decrement and decrements the byte at its index by exactly one. -/
def Obligations.OneTickPerDecrement : Prop :=
  ∀ (s t : State) (slot : Byte) (r : Timer), exec (.timerUpdate slot) s = .next t → s.timer? slot = some r →
    (t.events = s.events ∧ ∀ a, t.byteAt a = s.byteAt a) ∨
    (∃ elapsed, t.events = s.events ++ [{ slot := slot, value := s.byteAt r.idx.toNat, elapsed := elapsed }] ∧
      0 < (s.byteAt r.idx.toNat).toNat ∧
      (t.byteAt r.idx.toNat).toNat = (s.byteAt r.idx.toNat).toNat - 1)

/-- R191: with 2 in memory and both polls at least one period after the baseline, three TIMER_UPDATEs answer 3, 3, 0,
TIMER_VALUE then answers 0, and two TICKs are emitted, with value 2 and then 1. -/
def Obligations.CountOfTwoTicksTwiceThenStops : Prop :=
  ∀ (s : State) (slot : Byte) (r : Timer) (m tc tr tc' tr' : Time) (rest : List Time), Running s →
    slot.toNat < s.params.numTimer → s.timer? slot = some r → r.idx.toNat < s.params.cap →
    (s.byteAt r.idx.toNat).toNat = 2 → TimeInputOk s → s.tLast = some m → r.lastTick ≤ m →
    s.nowIn = tc :: tr :: tc' :: tr' :: rest → TickDue r tc → TickDue { r with lastTick := tr } tc' →
    ∃ t1 t2 t3 t4 e1 e2, exec (.timerUpdate slot) s = .next t1 ∧ exec (.timerUpdate slot) t1 = .next t2 ∧
      exec (.timerUpdate slot) t2 = .next t3 ∧ exec (.timerValue slot) t3 = .next t4 ∧
      t4.responses = s.responses ++
        [{ word := rspOf 0 0 3, dump := [] }, { word := rspOf 0 0 3, dump := [] },
         { word := rspOf 0 0 0, dump := [] }, { word := rspOf 0 0 0, dump := [] }] ∧
      t4.events = s.events ++
        [{ slot := slot, value := 2, elapsed := e1 }, { slot := slot, value := 1, elapsed := e2 }]

/-! ### Laws over several commands -/

/-- R109: MEM_SET_BYTE then MEM_GET_BYTE returns the value written. -/
def Obligations.ByteRoundTrip : Prop :=
  ∀ (s : State) (i : Half) (v : Byte), Running s → i.toNat < s.params.cap →
    ∃ t u, exec (.memSetByte i v) s = .next t ∧ exec (.memGetByte i) t = .next u ∧ u = okWith t v.toNat

/-- R110: under either bit order a bit that is set reads as set, one that is cleared as cleared, and MEM_GET_BIT of
every other bit index answers as before (the same bit, or the same fault where that index is out of range). -/
def Obligations.BitsAreIndependent : Prop :=
  ∀ (s : State) (b b' : Half) (on : Bool), Running s → b.toNat < s.params.cap * 8 →
    ∃ t, exec (.memSetBit b on) s = .next t ∧ exec (.memGetBit b) t = .next (okWith t on.toNat) ∧
      (b' ≠ b →
        (∃ x, exec (.memGetBit b') s = .next (okWith s x) ∧ exec (.memGetBit b') t = .next (okWith t x)) ∨
        (∃ cause, exec (.memGetBit b') s = .next (faultWith s cause b'.toNat) ∧
          exec (.memGetBit b') t = .next (faultWith t cause b'.toNat)))

/-- R139: with an existing bound index, PULL then PUSH leaves every byte of memory, and PUSH then PULL leaves the
cache. -/
def Obligations.PullPushIdentity : Prop :=
  ∀ (s : State) (slot : Byte) (r : ByteReg), Running s → slot.toNat < s.params.numBreg → s.breg? slot = some r →
    r.idx.toNat < s.params.cap →
    (∃ t u, exec (.bregPull slot) s = .next t ∧ exec (.bregPush slot) t = .next u ∧
      ∀ a, u.byteAt a = s.byteAt a) ∧
    (∃ t u, exec (.bregPush slot) s = .next t ∧ exec (.bregPull slot) t = .next u ∧ u.breg? slot = some r)

/-- R159: WREG_SET_VALUE v, WREG_PUSH, WREG_PULL leaves the cache at v, with v[15:8] at lo and v[7:0] at hi. -/
def Obligations.WordRoundTrip : Prop :=
  ∀ (s : State) (slot : Byte) (v : Half) (r : WordReg), Running s → slot.toNat < s.params.numWreg →
    s.wreg? slot = some r → r.lo ≠ r.hi → r.lo.toNat < s.params.cap → r.hi.toNat < s.params.cap →
    ∃ t1 t2 t3 r', exec (.wregSetValue slot v) s = .next t1 ∧ exec (.wregPush slot) t1 = .next t2 ∧
      exec (.wregPull slot) t2 = .next t3 ∧ t3.wreg? slot = some r' ∧ r'.cache = v ∧
      (t3.byteAt r.lo.toNat).toNat = v.toNat / 256 ∧ (t3.byteAt r.hi.toNat).toNat = v.toNat % 256

/-- R162: at every point WREG_VALUE = (WREG_GET_COMP 0) * 256 + (WREG_GET_COMP 1). -/
def Obligations.ComponentsAndValueAgree : Prop :=
  ∀ (s : State) (slot : Byte) (r : WordReg), Running s → slot.toNat < s.params.numWreg → s.wreg? slot = some r →
    ∃ v c0 c1, exec (.wregValue slot) s = .next (okWith s v) ∧ exec (.wregGetComp slot 0) s = .next (okWith s c0) ∧
      exec (.wregGetComp slot 1) s = .next (okWith s c1) ∧ c0 < 256 ∧ c1 < 256 ∧ v < 65536 ∧ v = c0 * 256 + c1
end

