-- ==== Sys2Proof/Laws/Append.lean ====
section
/-! SUPPORT. Concatenation as arithmetic: `a ++ b` has `a` in the more significant position (R10). -/

namespace Sys2Proof

theorem toNat_append_add {n m : Nat} (x : BitVec n) (y : BitVec m) :
    (x ++ y).toNat = x.toNat * 2 ^ m + y.toNat := by
  rw [BitVec.toNat_append, ← Nat.shiftLeft_add_eq_or_of_lt y.isLt, Nat.shiftLeft_eq]

end Sys2Proof
end

