-- ==== Sys2Proof/Laws/State.lean ====
section
/-! SUPPORT. One lemma per field per update of the state, so that no proof unfolds a record update. -/

namespace Sys2Proof.Machine

/-! ### setByte -/

@[simp] theorem State.setByte_params (s : State) (i : Nat) (v : Byte) : (s.setByte i v).params = s.params := rfl
@[simp] theorem State.setByte_start (s : State) (i : Nat) (v : Byte) : (s.setByte i v).start = s.start := rfl
@[simp] theorem State.setByte_mem (s : State) (i : Nat) (v : Byte) : (s.setByte i v).mem = Memory.write s.mem i v := rfl
@[simp] theorem State.setByte_bregs (s : State) (i : Nat) (v : Byte) : (s.setByte i v).bregs = s.bregs := rfl
@[simp] theorem State.setByte_wregs (s : State) (i : Nat) (v : Byte) : (s.setByte i v).wregs = s.wregs := rfl
@[simp] theorem State.setByte_timers (s : State) (i : Nat) (v : Byte) : (s.setByte i v).timers = s.timers := rfl
@[simp] theorem State.setByte_latch (s : State) (i : Nat) (v : Byte) : (s.setByte i v).latch = s.latch := rfl
@[simp] theorem State.setByte_events (s : State) (i : Nat) (v : Byte) : (s.setByte i v).events = s.events := rfl
@[simp] theorem State.setByte_tLast (s : State) (i : Nat) (v : Byte) : (s.setByte i v).tLast = s.tLast := rfl
@[simp] theorem State.setByte_inputs (s : State) (i : Nat) (v : Byte) : (s.setByte i v).inputs = s.inputs := rfl
@[simp] theorem State.setByte_responses (s : State) (i : Nat) (v : Byte) : (s.setByte i v).responses = s.responses := rfl
@[simp] theorem State.setByte_nowIn (s : State) (i : Nat) (v : Byte) : (s.setByte i v).nowIn = s.nowIn := rfl
@[simp] theorem State.setByte_draws (s : State) (i : Nat) (v : Byte) : (s.setByte i v).draws = s.draws := rfl

/-! ### putBreg -/

@[simp] theorem State.putBreg_params (s : State) (slot : Byte) (r : ByteReg) : (s.putBreg slot r).params = s.params := rfl
@[simp] theorem State.putBreg_start (s : State) (slot : Byte) (r : ByteReg) : (s.putBreg slot r).start = s.start := rfl
@[simp] theorem State.putBreg_mem (s : State) (slot : Byte) (r : ByteReg) : (s.putBreg slot r).mem = s.mem := rfl
@[simp] theorem State.putBreg_bregs (s : State) (slot : Byte) (r : ByteReg) : (s.putBreg slot r).bregs = Table.put s.bregs slot.toNat r := rfl
@[simp] theorem State.putBreg_wregs (s : State) (slot : Byte) (r : ByteReg) : (s.putBreg slot r).wregs = s.wregs := rfl
@[simp] theorem State.putBreg_timers (s : State) (slot : Byte) (r : ByteReg) : (s.putBreg slot r).timers = s.timers := rfl
@[simp] theorem State.putBreg_latch (s : State) (slot : Byte) (r : ByteReg) : (s.putBreg slot r).latch = s.latch := rfl
@[simp] theorem State.putBreg_events (s : State) (slot : Byte) (r : ByteReg) : (s.putBreg slot r).events = s.events := rfl
@[simp] theorem State.putBreg_tLast (s : State) (slot : Byte) (r : ByteReg) : (s.putBreg slot r).tLast = s.tLast := rfl
@[simp] theorem State.putBreg_inputs (s : State) (slot : Byte) (r : ByteReg) : (s.putBreg slot r).inputs = s.inputs := rfl
@[simp] theorem State.putBreg_responses (s : State) (slot : Byte) (r : ByteReg) : (s.putBreg slot r).responses = s.responses := rfl
@[simp] theorem State.putBreg_nowIn (s : State) (slot : Byte) (r : ByteReg) : (s.putBreg slot r).nowIn = s.nowIn := rfl
@[simp] theorem State.putBreg_draws (s : State) (slot : Byte) (r : ByteReg) : (s.putBreg slot r).draws = s.draws := rfl

/-! ### putWreg -/

@[simp] theorem State.putWreg_params (s : State) (slot : Byte) (r : WordReg) : (s.putWreg slot r).params = s.params := rfl
@[simp] theorem State.putWreg_start (s : State) (slot : Byte) (r : WordReg) : (s.putWreg slot r).start = s.start := rfl
@[simp] theorem State.putWreg_mem (s : State) (slot : Byte) (r : WordReg) : (s.putWreg slot r).mem = s.mem := rfl
@[simp] theorem State.putWreg_bregs (s : State) (slot : Byte) (r : WordReg) : (s.putWreg slot r).bregs = s.bregs := rfl
@[simp] theorem State.putWreg_wregs (s : State) (slot : Byte) (r : WordReg) : (s.putWreg slot r).wregs = Table.put s.wregs slot.toNat r := rfl
@[simp] theorem State.putWreg_timers (s : State) (slot : Byte) (r : WordReg) : (s.putWreg slot r).timers = s.timers := rfl
@[simp] theorem State.putWreg_latch (s : State) (slot : Byte) (r : WordReg) : (s.putWreg slot r).latch = s.latch := rfl
@[simp] theorem State.putWreg_events (s : State) (slot : Byte) (r : WordReg) : (s.putWreg slot r).events = s.events := rfl
@[simp] theorem State.putWreg_tLast (s : State) (slot : Byte) (r : WordReg) : (s.putWreg slot r).tLast = s.tLast := rfl
@[simp] theorem State.putWreg_inputs (s : State) (slot : Byte) (r : WordReg) : (s.putWreg slot r).inputs = s.inputs := rfl
@[simp] theorem State.putWreg_responses (s : State) (slot : Byte) (r : WordReg) : (s.putWreg slot r).responses = s.responses := rfl
@[simp] theorem State.putWreg_nowIn (s : State) (slot : Byte) (r : WordReg) : (s.putWreg slot r).nowIn = s.nowIn := rfl
@[simp] theorem State.putWreg_draws (s : State) (slot : Byte) (r : WordReg) : (s.putWreg slot r).draws = s.draws := rfl

/-! ### putTimer -/

@[simp] theorem State.putTimer_params (s : State) (slot : Byte) (r : Timer) : (s.putTimer slot r).params = s.params := rfl
@[simp] theorem State.putTimer_start (s : State) (slot : Byte) (r : Timer) : (s.putTimer slot r).start = s.start := rfl
@[simp] theorem State.putTimer_mem (s : State) (slot : Byte) (r : Timer) : (s.putTimer slot r).mem = s.mem := rfl
@[simp] theorem State.putTimer_bregs (s : State) (slot : Byte) (r : Timer) : (s.putTimer slot r).bregs = s.bregs := rfl
@[simp] theorem State.putTimer_wregs (s : State) (slot : Byte) (r : Timer) : (s.putTimer slot r).wregs = s.wregs := rfl
@[simp] theorem State.putTimer_timers (s : State) (slot : Byte) (r : Timer) : (s.putTimer slot r).timers = Table.put s.timers slot.toNat r := rfl
@[simp] theorem State.putTimer_latch (s : State) (slot : Byte) (r : Timer) : (s.putTimer slot r).latch = s.latch := rfl
@[simp] theorem State.putTimer_events (s : State) (slot : Byte) (r : Timer) : (s.putTimer slot r).events = s.events := rfl
@[simp] theorem State.putTimer_tLast (s : State) (slot : Byte) (r : Timer) : (s.putTimer slot r).tLast = s.tLast := rfl
@[simp] theorem State.putTimer_inputs (s : State) (slot : Byte) (r : Timer) : (s.putTimer slot r).inputs = s.inputs := rfl
@[simp] theorem State.putTimer_responses (s : State) (slot : Byte) (r : Timer) : (s.putTimer slot r).responses = s.responses := rfl
@[simp] theorem State.putTimer_nowIn (s : State) (slot : Byte) (r : Timer) : (s.putTimer slot r).nowIn = s.nowIn := rfl
@[simp] theorem State.putTimer_draws (s : State) (slot : Byte) (r : Timer) : (s.putTimer slot r).draws = s.draws := rfl

/-! ### emit -/

@[simp] theorem State.emit_params (s : State) (e : Tick) : (s.emit e).params = s.params := rfl
@[simp] theorem State.emit_start (s : State) (e : Tick) : (s.emit e).start = s.start := rfl
@[simp] theorem State.emit_mem (s : State) (e : Tick) : (s.emit e).mem = s.mem := rfl
@[simp] theorem State.emit_bregs (s : State) (e : Tick) : (s.emit e).bregs = s.bregs := rfl
@[simp] theorem State.emit_wregs (s : State) (e : Tick) : (s.emit e).wregs = s.wregs := rfl
@[simp] theorem State.emit_timers (s : State) (e : Tick) : (s.emit e).timers = s.timers := rfl
@[simp] theorem State.emit_latch (s : State) (e : Tick) : (s.emit e).latch = s.latch := rfl
@[simp] theorem State.emit_events (s : State) (e : Tick) : (s.emit e).events = s.events ++ [e] := rfl
@[simp] theorem State.emit_tLast (s : State) (e : Tick) : (s.emit e).tLast = s.tLast := rfl
@[simp] theorem State.emit_inputs (s : State) (e : Tick) : (s.emit e).inputs = s.inputs := rfl
@[simp] theorem State.emit_responses (s : State) (e : Tick) : (s.emit e).responses = s.responses := rfl
@[simp] theorem State.emit_nowIn (s : State) (e : Tick) : (s.emit e).nowIn = s.nowIn := rfl
@[simp] theorem State.emit_draws (s : State) (e : Tick) : (s.emit e).draws = s.draws := rfl

/-! ### answer -/

@[simp] theorem State.answer_params (s : State) (r : Response) : (s.answer r).params = s.params := rfl
@[simp] theorem State.answer_start (s : State) (r : Response) : (s.answer r).start = s.start := rfl
@[simp] theorem State.answer_mem (s : State) (r : Response) : (s.answer r).mem = s.mem := rfl
@[simp] theorem State.answer_bregs (s : State) (r : Response) : (s.answer r).bregs = s.bregs := rfl
@[simp] theorem State.answer_wregs (s : State) (r : Response) : (s.answer r).wregs = s.wregs := rfl
@[simp] theorem State.answer_timers (s : State) (r : Response) : (s.answer r).timers = s.timers := rfl
@[simp] theorem State.answer_latch (s : State) (r : Response) : (s.answer r).latch = s.latch := rfl
@[simp] theorem State.answer_events (s : State) (r : Response) : (s.answer r).events = s.events := rfl
@[simp] theorem State.answer_tLast (s : State) (r : Response) : (s.answer r).tLast = s.tLast := rfl
@[simp] theorem State.answer_inputs (s : State) (r : Response) : (s.answer r).inputs = s.inputs := rfl
@[simp] theorem State.answer_responses (s : State) (r : Response) : (s.answer r).responses = s.responses ++ [r] := rfl
@[simp] theorem State.answer_nowIn (s : State) (r : Response) : (s.answer r).nowIn = s.nowIn := rfl
@[simp] theorem State.answer_draws (s : State) (r : Response) : (s.answer r).draws = s.draws := rfl

/-! ### setLatch -/

@[simp] theorem State.setLatch_params (s : State) (l : FaultLatch) : (s.setLatch l).params = s.params := rfl
@[simp] theorem State.setLatch_start (s : State) (l : FaultLatch) : (s.setLatch l).start = s.start := rfl
@[simp] theorem State.setLatch_mem (s : State) (l : FaultLatch) : (s.setLatch l).mem = s.mem := rfl
@[simp] theorem State.setLatch_bregs (s : State) (l : FaultLatch) : (s.setLatch l).bregs = s.bregs := rfl
@[simp] theorem State.setLatch_wregs (s : State) (l : FaultLatch) : (s.setLatch l).wregs = s.wregs := rfl
@[simp] theorem State.setLatch_timers (s : State) (l : FaultLatch) : (s.setLatch l).timers = s.timers := rfl
@[simp] theorem State.setLatch_latch (s : State) (l : FaultLatch) : (s.setLatch l).latch = l := rfl
@[simp] theorem State.setLatch_events (s : State) (l : FaultLatch) : (s.setLatch l).events = s.events := rfl
@[simp] theorem State.setLatch_tLast (s : State) (l : FaultLatch) : (s.setLatch l).tLast = s.tLast := rfl
@[simp] theorem State.setLatch_inputs (s : State) (l : FaultLatch) : (s.setLatch l).inputs = s.inputs := rfl
@[simp] theorem State.setLatch_responses (s : State) (l : FaultLatch) : (s.setLatch l).responses = s.responses := rfl
@[simp] theorem State.setLatch_nowIn (s : State) (l : FaultLatch) : (s.setLatch l).nowIn = s.nowIn := rfl
@[simp] theorem State.setLatch_draws (s : State) (l : FaultLatch) : (s.setLatch l).draws = s.draws := rfl

/-! ### faultedWith -/

@[simp] theorem State.faultedWith_params (s : State) (c : Cause) (info : Half) : (s.faultedWith c info).params = s.params := rfl
@[simp] theorem State.faultedWith_start (s : State) (c : Cause) (info : Half) : (s.faultedWith c info).start = s.start := rfl
@[simp] theorem State.faultedWith_mem (s : State) (c : Cause) (info : Half) : (s.faultedWith c info).mem = s.mem := rfl
@[simp] theorem State.faultedWith_bregs (s : State) (c : Cause) (info : Half) : (s.faultedWith c info).bregs = s.bregs := rfl
@[simp] theorem State.faultedWith_wregs (s : State) (c : Cause) (info : Half) : (s.faultedWith c info).wregs = s.wregs := rfl
@[simp] theorem State.faultedWith_timers (s : State) (c : Cause) (info : Half) : (s.faultedWith c info).timers = s.timers := rfl
@[simp] theorem State.faultedWith_latch (s : State) (c : Cause) (info : Half) : (s.faultedWith c info).latch = { faulted := true, cause := c.code, info := info } := rfl
@[simp] theorem State.faultedWith_events (s : State) (c : Cause) (info : Half) : (s.faultedWith c info).events = s.events := rfl
@[simp] theorem State.faultedWith_tLast (s : State) (c : Cause) (info : Half) : (s.faultedWith c info).tLast = s.tLast := rfl
@[simp] theorem State.faultedWith_inputs (s : State) (c : Cause) (info : Half) : (s.faultedWith c info).inputs = s.inputs := rfl
@[simp] theorem State.faultedWith_responses (s : State) (c : Cause) (info : Half) : (s.faultedWith c info).responses = s.responses ++ [faultResponse c.code info] := rfl
@[simp] theorem State.faultedWith_nowIn (s : State) (c : Cause) (info : Half) : (s.faultedWith c info).nowIn = s.nowIn := rfl
@[simp] theorem State.faultedWith_draws (s : State) (c : Cause) (info : Half) : (s.faultedWith c info).draws = s.draws := rfl

/-! ### resetTo -/

@[simp] theorem State.resetTo_params (s : State) (c : Configuration) : (s.resetTo c).params = c.params := rfl
@[simp] theorem State.resetTo_start (s : State) (c : Configuration) : (s.resetTo c).start = c.start := rfl
@[simp] theorem State.resetTo_mem (s : State) (c : Configuration) : (s.resetTo c).mem = Memory.ofBytes 0 (initialBytes c) := rfl
@[simp] theorem State.resetTo_bregs (s : State) (c : Configuration) : (s.resetTo c).bregs = [] := rfl
@[simp] theorem State.resetTo_wregs (s : State) (c : Configuration) : (s.resetTo c).wregs = [] := rfl
@[simp] theorem State.resetTo_timers (s : State) (c : Configuration) : (s.resetTo c).timers = [] := rfl
@[simp] theorem State.resetTo_latch (s : State) (c : Configuration) : (s.resetTo c).latch = { faulted := false, cause := 0, info := 0 } := rfl
@[simp] theorem State.resetTo_events (s : State) (c : Configuration) : (s.resetTo c).events = [] := rfl
@[simp] theorem State.resetTo_tLast (s : State) (c : Configuration) : (s.resetTo c).tLast = none := rfl
@[simp] theorem State.resetTo_inputs (s : State) (c : Configuration) : (s.resetTo c).inputs = s.inputs := rfl
@[simp] theorem State.resetTo_responses (s : State) (c : Configuration) : (s.resetTo c).responses = s.responses := rfl
@[simp] theorem State.resetTo_nowIn (s : State) (c : Configuration) : (s.resetTo c).nowIn = s.nowIn := rfl
@[simp] theorem State.resetTo_draws (s : State) (c : Configuration) : (s.resetTo c).draws = s.draws := rfl

/-! ### afterInput -/

@[simp] theorem State.afterInput_params (s : State) : (s.afterInput).params = s.params := rfl
@[simp] theorem State.afterInput_start (s : State) : (s.afterInput).start = s.start := rfl
@[simp] theorem State.afterInput_mem (s : State) : (s.afterInput).mem = s.mem := rfl
@[simp] theorem State.afterInput_bregs (s : State) : (s.afterInput).bregs = s.bregs := rfl
@[simp] theorem State.afterInput_wregs (s : State) : (s.afterInput).wregs = s.wregs := rfl
@[simp] theorem State.afterInput_timers (s : State) : (s.afterInput).timers = s.timers := rfl
@[simp] theorem State.afterInput_latch (s : State) : (s.afterInput).latch = s.latch := rfl
@[simp] theorem State.afterInput_events (s : State) : (s.afterInput).events = s.events := rfl
@[simp] theorem State.afterInput_tLast (s : State) : (s.afterInput).tLast = s.tLast := rfl
@[simp] theorem State.afterInput_inputs (s : State) : (s.afterInput).inputs = s.inputs.tail := rfl
@[simp] theorem State.afterInput_responses (s : State) : (s.afterInput).responses = s.responses := rfl
@[simp] theorem State.afterInput_nowIn (s : State) : (s.afterInput).nowIn = s.nowIn := rfl
@[simp] theorem State.afterInput_draws (s : State) : (s.afterInput).draws = s.draws := rfl

/-! ### withCommand -/

@[simp] theorem State.withCommand_params (s : State) (w : Command) : (s.withCommand w).params = s.params := rfl
@[simp] theorem State.withCommand_start (s : State) (w : Command) : (s.withCommand w).start = s.start := rfl
@[simp] theorem State.withCommand_mem (s : State) (w : Command) : (s.withCommand w).mem = s.mem := rfl
@[simp] theorem State.withCommand_bregs (s : State) (w : Command) : (s.withCommand w).bregs = s.bregs := rfl
@[simp] theorem State.withCommand_wregs (s : State) (w : Command) : (s.withCommand w).wregs = s.wregs := rfl
@[simp] theorem State.withCommand_timers (s : State) (w : Command) : (s.withCommand w).timers = s.timers := rfl
@[simp] theorem State.withCommand_latch (s : State) (w : Command) : (s.withCommand w).latch = s.latch := rfl
@[simp] theorem State.withCommand_events (s : State) (w : Command) : (s.withCommand w).events = s.events := rfl
@[simp] theorem State.withCommand_tLast (s : State) (w : Command) : (s.withCommand w).tLast = s.tLast := rfl
@[simp] theorem State.withCommand_inputs (s : State) (w : Command) : (s.withCommand w).inputs = .command w :: s.inputs := rfl
@[simp] theorem State.withCommand_responses (s : State) (w : Command) : (s.withCommand w).responses = s.responses := rfl
@[simp] theorem State.withCommand_nowIn (s : State) (w : Command) : (s.withCommand w).nowIn = s.nowIn := rfl
@[simp] theorem State.withCommand_draws (s : State) (w : Command) : (s.withCommand w).draws = s.draws := rfl

/-! ### afterSample -/

@[simp] theorem State.afterSample_params (s : State) : s.afterSample.params = s.params := by
  unfold State.afterSample; split <;> rfl
@[simp] theorem State.afterSample_start (s : State) : s.afterSample.start = s.start := by
  unfold State.afterSample; split <;> rfl
@[simp] theorem State.afterSample_mem (s : State) : s.afterSample.mem = s.mem := by
  unfold State.afterSample; split <;> rfl
@[simp] theorem State.afterSample_bregs (s : State) : s.afterSample.bregs = s.bregs := by
  unfold State.afterSample; split <;> rfl
@[simp] theorem State.afterSample_wregs (s : State) : s.afterSample.wregs = s.wregs := by
  unfold State.afterSample; split <;> rfl
@[simp] theorem State.afterSample_timers (s : State) : s.afterSample.timers = s.timers := by
  unfold State.afterSample; split <;> rfl
@[simp] theorem State.afterSample_latch (s : State) : s.afterSample.latch = s.latch := by
  unfold State.afterSample; split <;> rfl
@[simp] theorem State.afterSample_events (s : State) : s.afterSample.events = s.events := by
  unfold State.afterSample; split <;> rfl
@[simp] theorem State.afterSample_inputs (s : State) : s.afterSample.inputs = s.inputs := by
  unfold State.afterSample; split <;> rfl
@[simp] theorem State.afterSample_responses (s : State) : s.afterSample.responses = s.responses := by
  unfold State.afterSample; split <;> rfl

/-- The sample taken is the new T_LAST. -/
@[simp] theorem State.afterSample_tLast (s : State) : s.afterSample.tLast = some s.nextSample := by
  unfold State.afterSample State.nextSample; split <;> rfl

@[simp] theorem State.afterSample_nowIn (s : State) : s.afterSample.nowIn = s.nowIn.tail := by
  unfold State.afterSample; split <;> simp_all

/-- Only a free draw advances the counter. -/
theorem State.afterSample_draws (s : State) :
    s.afterSample.draws = if s.nowIn = [] then s.draws + 1 else s.draws := by
  unfold State.afterSample; split <;> simp_all

/-! ### Reading after an update -/

@[simp] theorem State.byteAt_putBreg (s : State) (slot : Byte) (r : ByteReg) (j : Nat) : (s.putBreg slot r).byteAt j = s.byteAt j := rfl
@[simp] theorem State.byteAt_putWreg (s : State) (slot : Byte) (r : WordReg) (j : Nat) : (s.putWreg slot r).byteAt j = s.byteAt j := rfl
@[simp] theorem State.byteAt_putTimer (s : State) (slot : Byte) (r : Timer) (j : Nat) : (s.putTimer slot r).byteAt j = s.byteAt j := rfl
@[simp] theorem State.byteAt_emit (s : State) (e : Tick) (j : Nat) : (s.emit e).byteAt j = s.byteAt j := rfl
@[simp] theorem State.byteAt_answer (s : State) (r : Response) (j : Nat) : (s.answer r).byteAt j = s.byteAt j := rfl
@[simp] theorem State.byteAt_setLatch (s : State) (l : FaultLatch) (j : Nat) : (s.setLatch l).byteAt j = s.byteAt j := rfl
@[simp] theorem State.byteAt_faultedWith (s : State) (c : Cause) (info : Half) (j : Nat) : (s.faultedWith c info).byteAt j = s.byteAt j := rfl
@[simp] theorem State.byteAt_afterInput (s : State) (j : Nat) : (s.afterInput).byteAt j = s.byteAt j := rfl
@[simp] theorem State.byteAt_withCommand (s : State) (w : Command) (j : Nat) : (s.withCommand w).byteAt j = s.byteAt j := rfl
@[simp] theorem State.bregAt_setByte (s : State) (i : Nat) (v : Byte) (slot : Byte) : (s.setByte i v).breg? slot = s.breg? slot := rfl
@[simp] theorem State.bregAt_putWreg (s : State) (sl : Byte) (r : WordReg) (slot : Byte) : (s.putWreg sl r).breg? slot = s.breg? slot := rfl
@[simp] theorem State.bregAt_putTimer (s : State) (sl : Byte) (r : Timer) (slot : Byte) : (s.putTimer sl r).breg? slot = s.breg? slot := rfl
@[simp] theorem State.bregAt_emit (s : State) (e : Tick) (slot : Byte) : (s.emit e).breg? slot = s.breg? slot := rfl
@[simp] theorem State.bregAt_answer (s : State) (r : Response) (slot : Byte) : (s.answer r).breg? slot = s.breg? slot := rfl
@[simp] theorem State.bregAt_setLatch (s : State) (l : FaultLatch) (slot : Byte) : (s.setLatch l).breg? slot = s.breg? slot := rfl
@[simp] theorem State.bregAt_faultedWith (s : State) (c : Cause) (info : Half) (slot : Byte) : (s.faultedWith c info).breg? slot = s.breg? slot := rfl
@[simp] theorem State.bregAt_afterInput (s : State) (slot : Byte) : (s.afterInput).breg? slot = s.breg? slot := rfl
@[simp] theorem State.bregAt_withCommand (s : State) (w : Command) (slot : Byte) : (s.withCommand w).breg? slot = s.breg? slot := rfl
@[simp] theorem State.wregAt_setByte (s : State) (i : Nat) (v : Byte) (slot : Byte) : (s.setByte i v).wreg? slot = s.wreg? slot := rfl
@[simp] theorem State.wregAt_putBreg (s : State) (sl : Byte) (r : ByteReg) (slot : Byte) : (s.putBreg sl r).wreg? slot = s.wreg? slot := rfl
@[simp] theorem State.wregAt_putTimer (s : State) (sl : Byte) (r : Timer) (slot : Byte) : (s.putTimer sl r).wreg? slot = s.wreg? slot := rfl
@[simp] theorem State.wregAt_emit (s : State) (e : Tick) (slot : Byte) : (s.emit e).wreg? slot = s.wreg? slot := rfl
@[simp] theorem State.wregAt_answer (s : State) (r : Response) (slot : Byte) : (s.answer r).wreg? slot = s.wreg? slot := rfl
@[simp] theorem State.wregAt_setLatch (s : State) (l : FaultLatch) (slot : Byte) : (s.setLatch l).wreg? slot = s.wreg? slot := rfl
@[simp] theorem State.wregAt_faultedWith (s : State) (c : Cause) (info : Half) (slot : Byte) : (s.faultedWith c info).wreg? slot = s.wreg? slot := rfl
@[simp] theorem State.wregAt_afterInput (s : State) (slot : Byte) : (s.afterInput).wreg? slot = s.wreg? slot := rfl
@[simp] theorem State.wregAt_withCommand (s : State) (w : Command) (slot : Byte) : (s.withCommand w).wreg? slot = s.wreg? slot := rfl
@[simp] theorem State.timerAt_setByte (s : State) (i : Nat) (v : Byte) (slot : Byte) : (s.setByte i v).timer? slot = s.timer? slot := rfl
@[simp] theorem State.timerAt_putBreg (s : State) (sl : Byte) (r : ByteReg) (slot : Byte) : (s.putBreg sl r).timer? slot = s.timer? slot := rfl
@[simp] theorem State.timerAt_putWreg (s : State) (sl : Byte) (r : WordReg) (slot : Byte) : (s.putWreg sl r).timer? slot = s.timer? slot := rfl
@[simp] theorem State.timerAt_emit (s : State) (e : Tick) (slot : Byte) : (s.emit e).timer? slot = s.timer? slot := rfl
@[simp] theorem State.timerAt_answer (s : State) (r : Response) (slot : Byte) : (s.answer r).timer? slot = s.timer? slot := rfl
@[simp] theorem State.timerAt_setLatch (s : State) (l : FaultLatch) (slot : Byte) : (s.setLatch l).timer? slot = s.timer? slot := rfl
@[simp] theorem State.timerAt_faultedWith (s : State) (c : Cause) (info : Half) (slot : Byte) : (s.faultedWith c info).timer? slot = s.timer? slot := rfl
@[simp] theorem State.timerAt_afterInput (s : State) (slot : Byte) : (s.afterInput).timer? slot = s.timer? slot := rfl
@[simp] theorem State.timerAt_withCommand (s : State) (w : Command) (slot : Byte) : (s.withCommand w).timer? slot = s.timer? slot := rfl

@[simp] theorem State.byteAt_afterSample (s : State) (j : Nat) : s.afterSample.byteAt j = s.byteAt j := by
  simp [State.byteAt]

@[simp] theorem State.bregAt_afterSample (s : State) (slot : Byte) : s.afterSample.breg? slot = s.breg? slot := by
  simp [State.breg?]

@[simp] theorem State.wregAt_afterSample (s : State) (slot : Byte) : s.afterSample.wreg? slot = s.wreg? slot := by
  simp [State.wreg?]

@[simp] theorem State.timerAt_afterSample (s : State) (slot : Byte) : s.afterSample.timer? slot = s.timer? slot := by
  simp [State.timer?]

/-- Taking the command just put on the port leaves the state as it was. -/
@[simp] theorem State.afterInput_withCommand (s : State) (w : Command) : (s.withCommand w).afterInput = s := rfl

end Sys2Proof.Machine
end

