-- ==== Sys2Proof/Laws/Bits.lean ====
section
/-! SUPPORT. The laws of bit positions, byte composition and the response word. -/

namespace Sys2Proof.Machine

/-- A bit position of a field of width `w` is below `w`. -/
theorem bitPosition_lt (order : BitOrder) {w k : Nat} (h : k < w) : bitPosition order w k < w := by
  cases order <;> simp only [bitPosition] <;> omega

/-- Different indices name different bits. -/
theorem bitPosition_inj (order : BitOrder) {w k j : Nat} (hk : k < w) (hj : j < w)
    (h : bitPosition order w k = bitPosition order w j) : k = j := by
  cases order <;> simp only [bitPosition] at h <;> omega

/-- The bits after one of them is replaced. -/
theorem getLsbD_replaceBit {w : Nat} (v : BitVec w) (p q : Nat) (on : Bool) :
    (replaceBit v p on).getLsbD q = if q = p then (decide (p < w) && on) else v.getLsbD q := by
  unfold replaceBit
  by_cases hw : q < w
  · by_cases h : q = p
    · subst h; cases on <;> simp [hw]
    · cases on <;> simp [h, hw]
  · have hge (x : BitVec w) : x.getLsbD q = false := BitVec.getLsbD_of_ge _ _ (not_lt.1 hw)
    rw [hge, hge]
    split_ifs with h
    · simp [← h, hw]
    · rfl

theorem toNat_composeBytes (m l : Byte) : (composeBytes m l).toNat = m.toNat * 256 + l.toNat := by
  unfold composeBytes
  simp only [toNat_append_add]
  omega

theorem toNat_highByte (v : Half) : (highByte v).toNat = v.toNat / 256 := by
  simp only [highByte, BitVec.extractLsb'_toNat, Nat.shiftRight_eq_div_pow]
  have := v.isLt; omega

theorem toNat_lowByte (v : Half) : (lowByte v).toNat = v.toNat % 256 := by
  simp only [lowByte, BitVec.extractLsb'_toNat, Nat.shiftRight_eq_div_pow]
  omega

@[simp] theorem highByte_composeBytes (m l : Byte) : highByte (composeBytes m l) = m := by
  apply BitVec.eq_of_toNat_eq
  rw [toNat_highByte, toNat_composeBytes]
  have := l.isLt; omega

@[simp] theorem lowByte_composeBytes (m l : Byte) : lowByte (composeBytes m l) = l := by
  apply BitVec.eq_of_toNat_eq
  rw [toNat_lowByte, toNat_composeBytes]
  have := l.isLt; omega

@[simp] theorem composeBytes_parts (v : Half) : composeBytes (highByte v) (lowByte v) = v := by
  apply BitVec.eq_of_toNat_eq
  rw [toNat_composeBytes, toNat_highByte, toNat_lowByte]
  omega

theorem toNat_zextByte (v : Byte) : (zextByte v).toNat = v.toNat := by
  simp only [zextByte, BitVec.toNat_setWidth]
  exact Nat.mod_eq_of_lt (lt_trans v.isLt (by decide))

theorem toNat_zextBit (x : Bool) : (zextBit x).toNat = x.toNat := by cases x <;> rfl

/-! ### The response word (R80) -/

theorem toNat_packRsp (st : BitVec 4) (cause : Byte) (data : Half) :
    (packRsp st cause data).toNat = st.toNat * 2 ^ 28 + cause.toNat * 2 ^ 16 + data.toNat := by
  unfold packRsp
  simp only [toNat_append_add, BitVec.toNat_ofNat]
  omega

@[simp] theorem rspSt_packRsp (st : BitVec 4) (cause : Byte) (data : Half) : rspSt (packRsp st cause data) = st := by
  apply BitVec.eq_of_toNat_eq
  simp only [rspSt, BitVec.extractLsb'_toNat, toNat_packRsp, Nat.shiftRight_eq_div_pow]
  have := st.isLt; have := cause.isLt; have := data.isLt; omega

@[simp] theorem rspZero_packRsp (st : BitVec 4) (cause : Byte) (data : Half) :
    rspZero (packRsp st cause data) = 0 := by
  apply BitVec.eq_of_toNat_eq
  simp only [rspZero, BitVec.extractLsb'_toNat, toNat_packRsp, Nat.shiftRight_eq_div_pow]
  have := st.isLt; have := cause.isLt; have := data.isLt
  simp; omega

@[simp] theorem rspCause_packRsp (st : BitVec 4) (cause : Byte) (data : Half) :
    rspCause (packRsp st cause data) = cause := by
  apply BitVec.eq_of_toNat_eq
  simp only [rspCause, BitVec.extractLsb'_toNat, toNat_packRsp, Nat.shiftRight_eq_div_pow]
  have := st.isLt; have := cause.isLt; have := data.isLt; omega

@[simp] theorem rspData_packRsp (st : BitVec 4) (cause : Byte) (data : Half) :
    rspData (packRsp st cause data) = data := by
  apply BitVec.eq_of_toNat_eq
  simp only [rspData, BitVec.extractLsb'_toNat, toNat_packRsp, Nat.shiftRight_eq_div_pow]
  have := st.isLt; have := cause.isLt; have := data.isLt; omega

end Sys2Proof.Machine
end

