-- ==== Sys2Proof/Laws/Memory.lean ====
section
/-! SUPPORT. The laws of tables and memory: a read after a write, and that every memory operation keeps the canonical
form. -/

namespace Sys2Proof.Machine

section Tables
variable {α : Type}

@[simp] theorem Table.find_nil (k : Nat) : Table.find? ([] : Table α) k = none := rfl

theorem Table.find_cons (a : Nat) (x : α) (t : Table α) (k : Nat) :
    Table.find? ((a, x) :: t) k = if a = k then some x else Table.find? t k := rfl

@[simp] theorem Table.find_put_self (t : Table α) (k : Nat) (x : α) : Table.find? (Table.put t k x) k = some x := by
  induction t with
  | nil => simp [Table.put, Table.find_cons]
  | cons e t ih =>
    obtain ⟨a, y⟩ := e
    unfold Table.put
    split_ifs with h1 h2
    · simp [Table.find_cons]
    · simp [Table.find_cons]
    · rw [Table.find_cons, if_neg (Ne.symm h2), ih]

theorem Table.find_put_ne (t : Table α) {k j : Nat} (x : α) (h : j ≠ k) :
    Table.find? (Table.put t k x) j = Table.find? t j := by
  induction t with
  | nil => simp [Table.put, Table.find_cons, Ne.symm h]
  | cons e t ih =>
    obtain ⟨a, y⟩ := e
    unfold Table.put
    split_ifs with h1 h2
    · simp [Table.find_cons, Ne.symm h]
    · subst h2; simp [Table.find_cons, Ne.symm h]
    · simp [Table.find_cons, ih]

@[simp] theorem Table.find_erase_self (t : Table α) (k : Nat) : Table.find? (Table.erase t k) k = none := by
  induction t with
  | nil => rfl
  | cons e t ih =>
    obtain ⟨a, y⟩ := e
    unfold Table.erase at ih ⊢
    by_cases h : a = k <;> simp [h, Table.find_cons, ih]

theorem Table.find_erase_ne (t : Table α) {k j : Nat} (h : j ≠ k) :
    Table.find? (Table.erase t k) j = Table.find? t j := by
  induction t with
  | nil => rfl
  | cons e t ih =>
    obtain ⟨a, y⟩ := e
    unfold Table.erase at ih ⊢
    by_cases h' : a = k
    · subst h'; simp [Table.find_cons, ih, Ne.symm h]
    · simp [h', Table.find_cons, ih]

/-- What a table may list after `put`. -/
theorem Table.mem_put {t : Table α} {k : Nat} {x : α} {c : Nat × α} (h : c ∈ Table.put t k x) :
    c = (k, x) ∨ c ∈ t := by
  induction t with
  | nil => simpa [Table.put] using h
  | cons e t ih =>
    obtain ⟨a, y⟩ := e
    unfold Table.put at h
    split_ifs at h with h1 h2
    · simpa using h
    · rcases List.mem_cons.1 h with h | h
      · exact .inl h
      · exact .inr (List.mem_cons_of_mem _ h)
    · rcases List.mem_cons.1 h with h | h
      · exact .inr (h ▸ List.mem_cons_self)
      · exact (ih h).imp_right (List.mem_cons_of_mem _)

theorem Table.mem_erase {t : Table α} {k : Nat} {c : Nat × α} (h : c ∈ Table.erase t k) : c ∈ t :=
  (List.mem_filter.1 h).1

theorem Table.sorted_put {t : Table α} (k : Nat) (x : α) (h : Table.Sorted t) : Table.Sorted (Table.put t k x) := by
  induction t with
  | nil => simp [Table.put, Table.Sorted]
  | cons e t ih =>
    obtain ⟨a, y⟩ := e
    have ⟨ha, ht⟩ := List.pairwise_cons.1 h
    unfold Table.put
    split_ifs with h1 h2
    · refine List.pairwise_cons.2 ⟨fun c hc => ?_, h⟩
      rcases List.mem_cons.1 hc with rfl | hc
      · exact h1
      · exact lt_trans h1 (ha c hc)
    · subst h2; exact List.pairwise_cons.2 ⟨ha, ht⟩
    · refine List.pairwise_cons.2 ⟨fun c hc => ?_, ih ht⟩
      rcases Table.mem_put hc with rfl | hc
      · exact lt_of_le_of_ne (not_lt.1 h1) (Ne.symm h2)
      · exact ha c hc

theorem Table.sorted_erase {t : Table α} (k : Nat) (h : Table.Sorted t) : Table.Sorted (Table.erase t k) :=
  List.Pairwise.sublist List.filter_sublist h

/-- A key that is found is listed. -/
theorem Table.mem_of_find {t : Table α} {k : Nat} {x : α} (h : Table.find? t k = some x) : (k, x) ∈ t := by
  induction t with
  | nil => simp at h
  | cons e t ih =>
    obtain ⟨a, y⟩ := e
    rw [Table.find_cons] at h
    split_ifs at h with h1
    · cases h; exact h1 ▸ List.mem_cons_self
    · exact List.mem_cons_of_mem _ (ih h)

end Tables

/-! ### Memory -/

@[simp] theorem Memory.read_nil (i : Nat) : Memory.read [] i = Memory.unlisted := rfl

@[simp] theorem Memory.read_write_self (m : Memory) (i : Nat) (v : Byte) : Memory.read (Memory.write m i v) i = v := by
  unfold Memory.read Memory.write
  split_ifs with h
  · simp [h]
  · simp

theorem Memory.read_write_ne (m : Memory) {i j : Nat} (v : Byte) (h : j ≠ i) :
    Memory.read (Memory.write m i v) j = Memory.read m j := by
  unfold Memory.read Memory.write
  split_ifs
  · rw [Table.find_erase_ne _ h]
  · rw [Table.find_put_ne _ _ h]

/-- A write keeps the canonical form. -/
theorem Memory.wf_write {m : Memory} (i : Nat) (v : Byte) (h : Memory.wf m) : Memory.wf (Memory.write m i v) := by
  unfold Memory.write
  split_ifs with hv
  · exact ⟨Table.sorted_erase i h.1, fun c hc => h.2 c (Table.mem_erase hc)⟩
  · refine ⟨Table.sorted_put i v h.1, fun c hc => ?_⟩
    rcases Table.mem_put hc with rfl | hc
    · exact hv
    · exact h.2 c hc

/-- A write lists nothing but what was listed and the written index. -/
theorem Memory.mem_write {m : Memory} {i : Nat} {v : Byte} {c : Host.Cell} (h : c ∈ Memory.write m i v) :
    c.1 = i ∨ c ∈ m := by
  unfold Memory.write at h
  split_ifs at h
  · exact .inr (Table.mem_erase h)
  · exact (Table.mem_put h).imp_left fun e => by simp [e]

theorem Memory.mem_ofBytes {c : Host.Cell} {vs : List Byte} {i : Nat} (h : c ∈ Memory.ofBytes i vs) :
    i ≤ c.1 ∧ c.1 < i + vs.length ∧ c.2 ≠ Memory.unlisted := by
  induction vs generalizing i with
  | nil => simp [Memory.ofBytes] at h
  | cons v vs ih =>
    unfold Memory.ofBytes at h
    split_ifs at h with hv
    · obtain ⟨h1, h2, h3⟩ := ih h
      exact ⟨by omega, by simp only [List.length_cons]; omega, h3⟩
    · rcases List.mem_cons.1 h with rfl | h
      · exact ⟨le_rfl, by simp, hv⟩
      · obtain ⟨h1, h2, h3⟩ := ih h
        exact ⟨by omega, by simp only [List.length_cons]; omega, h3⟩

/-- Loading bytes gives the canonical form. -/
theorem Memory.wf_ofBytes (i : Nat) (vs : List Byte) : Memory.wf (Memory.ofBytes i vs) := by
  refine ⟨?_, fun c hc => (Memory.mem_ofBytes hc).2.2⟩
  induction vs generalizing i with
  | nil => simp [Memory.ofBytes, Table.Sorted]
  | cons v vs ih =>
    unfold Memory.ofBytes
    split_ifs
    · exact ih _
    · exact List.pairwise_cons.2 ⟨fun c hc => (Memory.mem_ofBytes hc).1, ih _⟩

/-- Loading bytes, then reading: the byte at its index, zero past the end. -/
theorem Memory.read_ofBytes (i j : Nat) (vs : List Byte) (h : i ≤ j) :
    Memory.read (Memory.ofBytes i vs) j = vs.getD (j - i) Memory.unlisted := by
  induction vs generalizing i with
  | nil => simp [Memory.ofBytes]
  | cons v vs ih =>
    unfold Memory.ofBytes
    rcases Nat.eq_or_lt_of_le h with rfl | hlt
    · split_ifs with hv
      · have hn : Table.find? (Memory.ofBytes (i + 1) vs) i = none := by
          by_contra hc
          obtain ⟨x, hx⟩ := Option.ne_none_iff_exists'.1 hc
          have := (Memory.mem_ofBytes (Table.mem_of_find hx)).1
          simp at this
        simp [Memory.read, hn, hv]
      · simp [Memory.read, Table.find_cons]
    · have hs : j - i = (j - (i + 1)) + 1 := by omega
      split_ifs with hv
      · rw [ih _ hlt, hs, List.getD_cons_succ]
      · rw [hs, List.getD_cons_succ, ← ih _ hlt]
        simp [Memory.read, Table.find_cons, Nat.ne_of_lt hlt]

theorem reset_memory_wf : Memory.wf State.reset.mem := by decide

/-! ### Reading the state after an update -/

@[simp] theorem State.byteAt_setByte_self (s : State) (i : Nat) (v : Byte) : (s.setByte i v).byteAt i = v := by
  simp [State.byteAt]

theorem State.byteAt_setByte_ne (s : State) {i j : Nat} (v : Byte) (h : j ≠ i) :
    (s.setByte i v).byteAt j = s.byteAt j := by
  simp [State.byteAt, Memory.read_write_ne _ _ h]

theorem toNat_slot_ne {a b : Byte} (h : a ≠ b) : a.toNat ≠ b.toNat := fun e => h (BitVec.eq_of_toNat_eq e)

@[simp] theorem State.breg_putBreg_self (s : State) (slot : Byte) (r : ByteReg) :
    (s.putBreg slot r).breg? slot = some r := by simp [State.breg?]

theorem State.breg_putBreg_ne (s : State) {slot other : Byte} (r : ByteReg) (h : other ≠ slot) :
    (s.putBreg slot r).breg? other = s.breg? other := by
  simp [State.breg?, Table.find_put_ne _ _ (toNat_slot_ne h)]

@[simp] theorem State.wreg_putWreg_self (s : State) (slot : Byte) (r : WordReg) :
    (s.putWreg slot r).wreg? slot = some r := by simp [State.wreg?]

theorem State.wreg_putWreg_ne (s : State) {slot other : Byte} (r : WordReg) (h : other ≠ slot) :
    (s.putWreg slot r).wreg? other = s.wreg? other := by
  simp [State.wreg?, Table.find_put_ne _ _ (toNat_slot_ne h)]

@[simp] theorem State.timer_putTimer_self (s : State) (slot : Byte) (r : Timer) :
    (s.putTimer slot r).timer? slot = some r := by simp [State.timer?]

theorem State.timer_putTimer_ne (s : State) {slot other : Byte} (r : Timer) (h : other ≠ slot) :
    (s.putTimer slot r).timer? other = s.timer? other := by
  simp [State.timer?, Table.find_put_ne _ _ (toNat_slot_ne h)]

end Sys2Proof.Machine
end

