-- ==== Sys2Proof/Laws/Ops.lean ====
section
/-! SUPPORT. One lemma per shared operation that says once everything it can do: if it answers `next t`, then what led
there. Beside it, what the operation does when its check passes and when it fails. -/

namespace Sys2Proof.Machine

variable {s t : State}

@[simp] theorem respond_next {d : Half} : respond s d = .next t ↔ s.answer (okResponse d) = t := by
  simp [respond]

@[simp] theorem raiseFault_next {c : Cause} {info : Half} : raiseFault s c info = .next t ↔ s.faultedWith c info = t := by
  simp [raiseFault]

@[simp] theorem ignoreHalted_next : ignoreHalted s = .next t ↔ s.answer (faultedResponse s.latch) = t := by
  simp [ignoreHalted]

/-! ### The common checks (R214) -/

theorem whenRunning_running {k : Result} (h : s.latch.faulted = false) : whenRunning s k = k := by
  simp [whenRunning, h]

theorem whenRunning_halted {k : Result} (h : s.latch.faulted = true) : whenRunning s k = ignoreHalted s := by
  simp [whenRunning, h]

theorem whenRunning_next {k : Result} (h : whenRunning s k = .next t) :
    (s.latch.faulted = true ∧ s.answer (faultedResponse s.latch) = t) ∨ (s.latch.faulted = false ∧ k = .next t) := by
  unfold whenRunning at h
  split_ifs at h with hf
  · exact .inl ⟨hf, ignoreHalted_next.1 h⟩
  · exact .inr ⟨by simpa using hf, h⟩

theorem withSlot_ok {n : Nat} {slot : Byte} {k : Result} (hf : s.latch.faulted = false) (hn : slot.toNat < n) :
    withSlot s n slot k = k := by
  simp [withSlot, whenRunning, hf, not_le.2 hn]

theorem withSlot_range {n : Nat} {slot : Byte} {k : Result} (hf : s.latch.faulted = false) (hn : n ≤ slot.toNat) :
    withSlot s n slot k = raiseFault s .slotRange (zextByte slot) := by
  simp [withSlot, whenRunning, hf, hn]

theorem withSlot_next {n : Nat} {slot : Byte} {k : Result} (h : withSlot s n slot k = .next t) :
    (s.latch.faulted = true ∧ s.answer (faultedResponse s.latch) = t) ∨
    (s.latch.faulted = false ∧ n ≤ slot.toNat ∧ s.faultedWith .slotRange (zextByte slot) = t) ∨
    (s.latch.faulted = false ∧ slot.toNat < n ∧ k = .next t) := by
  rcases whenRunning_next h with h | ⟨hf, h⟩
  · exact .inl h
  · split_ifs at h with hn
    · exact .inr (.inl ⟨hf, hn, raiseFault_next.1 h⟩)
    · exact .inr (.inr ⟨hf, not_le.1 hn, h⟩)

theorem whenConstructed_next {α : Type} {slot : Byte} {held : Option α} {k : α → Result}
    (h : whenConstructed s slot held k = .next t) :
    (held = none ∧ s.faultedWith .slotUnconfigured (zextByte slot) = t) ∨ ∃ r, held = some r ∧ k r = .next t := by
  unfold whenConstructed at h
  split at h
  · exact .inl ⟨rfl, raiseFault_next.1 h⟩
  · exact .inr ⟨_, rfl, h⟩

theorem withBreg_ok {slot : Byte} {r : ByteReg} {k : ByteReg → Result} (hf : s.latch.faulted = false)
    (hn : slot.toNat < s.params.numBreg) (hr : s.breg? slot = some r) : withBreg s slot k = k r := by
  simp [withBreg, withSlot_ok hf hn, hr, whenConstructed]

theorem withWreg_ok {slot : Byte} {r : WordReg} {k : WordReg → Result} (hf : s.latch.faulted = false)
    (hn : slot.toNat < s.params.numWreg) (hr : s.wreg? slot = some r) : withWreg s slot k = k r := by
  simp [withWreg, withSlot_ok hf hn, hr, whenConstructed]

theorem withTimer_ok {slot : Byte} {r : Timer} {k : Timer → Result} (hf : s.latch.faulted = false)
    (hn : slot.toNat < s.params.numTimer) (hr : s.timer? slot = some r) : withTimer s slot k = k r := by
  simp [withTimer, withSlot_ok hf hn, hr, whenConstructed]

/-- Everything the common checks of a command on a constructed slot can do. -/
theorem slotCommand_next {α : Type} {n : Nat} {slot : Byte} {held : Option α} {k : α → Result}
    (h : withSlot s n slot (whenConstructed s slot held k) = .next t) :
    (s.latch.faulted = true ∧ s.answer (faultedResponse s.latch) = t) ∨
    (s.latch.faulted = false ∧ n ≤ slot.toNat ∧ s.faultedWith .slotRange (zextByte slot) = t) ∨
    (s.latch.faulted = false ∧ slot.toNat < n ∧ held = none ∧ s.faultedWith .slotUnconfigured (zextByte slot) = t) ∨
    ∃ r, s.latch.faulted = false ∧ slot.toNat < n ∧ held = some r ∧ k r = .next t := by
  rcases withSlot_next h with h | h | ⟨hf, hn, h⟩
  · exact .inl h
  · exact .inr (.inl h)
  · rcases whenConstructed_next h with ⟨he, h⟩ | ⟨r, he, h⟩
    · exact .inr (.inr (.inl ⟨hf, hn, he, h⟩))
    · exact .inr (.inr (.inr ⟨r, hf, hn, he, h⟩))

/-! ### Memory (R51 to R55) -/

theorem memRead_ok {i : Half} {k : Byte → Result} (h : i.toNat < s.params.cap) :
    memRead s i k = k (s.byteAt i.toNat) := by simp [memRead, not_le.2 h]

theorem memRead_oor {i : Half} {k : Byte → Result} (h : s.params.cap ≤ i.toNat) :
    memRead s i k = raiseFault s .oorMemByte i := by simp [memRead, h]

theorem memRead_next {i : Half} {k : Byte → Result} (h : memRead s i k = .next t) :
    (s.params.cap ≤ i.toNat ∧ s.faultedWith .oorMemByte i = t) ∨
    (i.toNat < s.params.cap ∧ k (s.byteAt i.toNat) = .next t) := by
  unfold memRead at h
  split_ifs at h with hc
  · exact .inl ⟨hc, raiseFault_next.1 h⟩
  · exact .inr ⟨not_le.1 hc, h⟩

theorem memWrite_ok {i : Half} {v : Byte} {k : State → Result} (h : i.toNat < s.params.cap) :
    memWrite s i v k = k (s.setByte i.toNat v) := by simp [memWrite, not_le.2 h]

theorem memWrite_oor {i : Half} {v : Byte} {k : State → Result} (h : s.params.cap ≤ i.toNat) :
    memWrite s i v k = raiseFault s .oorMemByte i := by simp [memWrite, h]

theorem memWrite_next {i : Half} {v : Byte} {k : State → Result} (h : memWrite s i v k = .next t) :
    (s.params.cap ≤ i.toNat ∧ s.faultedWith .oorMemByte i = t) ∨
    (i.toNat < s.params.cap ∧ k (s.setByte i.toNat v) = .next t) := by
  unfold memWrite at h
  split_ifs at h with hc
  · exact .inl ⟨hc, raiseFault_next.1 h⟩
  · exact .inr ⟨not_le.1 hc, h⟩

theorem checkBitIndex_ok {b : Nat} {k : Result} (h : b < s.params.cap * 8) : checkBitIndex s b k = k := by
  unfold checkBitIndex
  rw [if_neg (by omega), if_neg (by omega)]

theorem checkBitIndex_next {b : Nat} {k : Result} (h : checkBitIndex s b k = .next t) :
    (s.params.cap * 8 < b ∧ s.faultedWith .oorMemBit (BitVec.ofNat 16 b) = t) ∨
    (b = s.params.cap * 8 ∧ s.faultedWith .bitPastEnd (BitVec.ofNat 16 b) = t) ∨
    (b < s.params.cap * 8 ∧ k = .next t) := by
  unfold checkBitIndex at h
  split_ifs at h with h1 h2
  · exact .inl ⟨h1, raiseFault_next.1 h⟩
  · exact .inr (.inl ⟨h2, raiseFault_next.1 h⟩)
  · exact .inr (.inr ⟨by omega, h⟩)

/-- The byte of an existing bit index exists. -/
theorem byte_of_bit_lt {b : Nat} (h : b < s.params.cap * 8) : b / 8 < s.params.cap := by omega

/-! ### Register operands (R129, R133, R155) -/

theorem checkRegBit_ok {w : Nat} {i : Half} {k : Result} (h : i.toNat < w) : checkRegBit s w i k = k := by
  simp [checkRegBit, not_le.2 h]

theorem checkRegBit_next {w : Nat} {i : Half} {k : Result} (h : checkRegBit s w i k = .next t) :
    (w ≤ i.toNat ∧ s.faultedWith .oorRegBit i = t) ∨ (i.toNat < w ∧ k = .next t) := by
  unfold checkRegBit at h
  split_ifs at h with hc
  · exact .inl ⟨hc, raiseFault_next.1 h⟩
  · exact .inr ⟨not_le.1 hc, h⟩

theorem checkComponent_ok {i : Half} {k : Result} (h : i.toNat < 2) : checkComponent s i k = k := by
  simp [checkComponent, not_le.2 h]

theorem checkComponent_next {i : Half} {k : Result} (h : checkComponent s i k = .next t) :
    (2 ≤ i.toNat ∧ s.faultedWith .oorRegByte i = t) ∨ (i.toNat < 2 ∧ k = .next t) := by
  unfold checkComponent at h
  split_ifs at h with hc
  · exact .inl ⟨hc, raiseFault_next.1 h⟩
  · exact .inr ⟨not_le.1 hc, h⟩

/-! ### NOW (R180) -/

theorem State.freeSample_floor {m : Time} (h : s.tLast = some m) : m ≤ s.freeSample := by
  unfold State.freeSample
  rw [h]
  dsimp only
  split_ifs with hlt
  · exact BitVec.le_refl _
  · exact BitVec.not_lt.1 hlt

/-- A sample that is taken is at least every earlier one. -/
theorem sampleNow_next {k : Time → State → Result} (h : sampleNow s k = .next t) :
    (∀ m, s.tLast = some m → m ≤ s.nextSample) ∧ k s.nextSample s.afterSample = .next t := by
  unfold sampleNow at h
  split at h
  · next hn =>
    refine ⟨fun m hm => ?_, h⟩
    have : s.nextSample = s.freeSample := by simp [State.nextSample, hn]
    rw [this]
    exact State.freeSample_floor hm
  · split_ifs at h with ha
    refine ⟨fun m hm => ?_, h⟩
    have : ¬ s.nextSample < m := by simpa [State.sampleAllowed, hm] using ha
    exact BitVec.not_lt.1 this

/-- A sample is taken whenever the time source does not go back. -/
theorem sampleNow_ok {k : Time → State → Result} (h : ∀ m, s.tLast = some m → m ≤ s.nextSample) :
    sampleNow s k = k s.nextSample s.afterSample := by
  unfold sampleNow
  split
  · rfl
  · have ha : s.sampleAllowed = true := by
      unfold State.sampleAllowed
      split
      · rfl
      · next m hm => simpa using BitVec.not_lt.2 (h m hm)
    rw [if_pos ha]

end Sys2Proof.Machine
end

