-- ==== Sys2Proof/Laws/Claims.lean ====
section
/-! SUPPORT. The model's operations in the terms the claims are stated in (Safety.lean). -/

namespace Sys2Proof.Machine

open Sys2Proof.Safety

theorem packRsp_eq_rspOf (st : BitVec 4) (cause : Byte) (data : Half) :
    packRsp st cause data = rspOf st.toNat cause.toNat data.toNat := by
  apply BitVec.eq_of_toNat_eq
  rw [toNat_packRsp, rspOf, BitVec.toNat_ofNat]
  have := st.isLt; have := cause.isLt; have := data.isLt
  omega

theorem answer_okResponse (s : State) (d : Half) : s.answer (okResponse d) = okWith s d.toNat := by
  simp [State.answer, okResponse, okWith, answered, packRsp_eq_rspOf, stOk]

theorem respond_eq (s : State) (d : Half) : respond s d = .next (okWith s d.toNat) := by
  rw [respond, answer_okResponse]

theorem answer_faultedResponse (s : State) (l : FaultLatch) :
    s.answer (faultedResponse l) = answered s 2 l.cause.toNat l.info.toNat [] := by
  simp [State.answer, faultedResponse, answered, packRsp_eq_rspOf, stFaulted]

theorem answer_statusResponse (s : State) (l : FaultLatch) :
    s.answer (statusResponse l) = answered s 0 l.cause.toNat l.info.toNat [] := by
  simp [State.answer, statusResponse, answered, packRsp_eq_rspOf, stOk]

theorem faultedWith_eq (s : State) (c : Cause) (info : Half) :
    s.faultedWith c info = faultWith s c.code.toNat info.toNat := by
  simp [State.faultedWith, State.answer, State.setLatch, faultResponse, faultWith, answered, packRsp_eq_rspOf, stFault]

theorem raiseFault_eq (s : State) (c : Cause) (info : Half) :
    raiseFault s c info = .next (faultWith s c.code.toNat info.toNat) := by
  rw [raiseFault, faultedWith_eq]

theorem posOf_eq (order : BitOrder) (width k : Nat) : posOf order width k = bitPosition order width k := by
  cases order <;> rfl

/-- The bit of weight 2^p of a value. -/
theorem bitOf_eq {w : Nat} (v : BitVec w) (p : Nat) : bitOf v.toNat p = (v.getLsbD p).toNat := by
  rw [bitOf, BitVec.getLsbD, Nat.testBit_eq_decide_div_mod_eq]
  rcases Nat.mod_two_eq_zero_or_one (v.toNat / 2 ^ p) with h | h <;> simp [h]

theorem updatedAt_put {α : Type} (t : Table α) (k : Nat) (x : α) : UpdatedAt t (Table.put t k x) k x :=
  ⟨Table.find_put_self t k x, fun _ h => Table.find_put_ne t x h⟩

theorem writtenAt_write (s : State) (i : Nat) (v : Byte) : WrittenAt s (Memory.write s.mem i v) i v :=
  ⟨Memory.read_write_self s.mem i v, fun _ h => Memory.read_write_ne s.mem v h⟩

/-- A time input that keeps its duty gives an allowed sample. -/
theorem sample_allowed {s : State} (h : TimeInputOk s) : ∀ m, s.tLast = some m → m ≤ s.nextSample := by
  intro m hm
  unfold State.nextSample
  split
  · exact State.freeSample_floor hm
  · next hn => exact h.2 m hm _ (hn ▸ List.mem_cons_self)

/-- What taking a sample is. -/
theorem sampled_nextSample {s : State} (h : TimeInputOk s) : Sampled s s.nextSample s.afterSample := by
  refine ⟨sample_allowed h, ?_⟩
  unfold State.nextSample State.afterSample
  split
  · next hn => exact .inr ⟨hn, rfl⟩
  · next hn => exact .inl ⟨_, hn, rfl⟩

/-- The duty is kept by the rest of the time input. -/
theorem timeInputOk_afterSample {s : State} (h : TimeInputOk s) : TimeInputOk s.afterSample := by
  refine ⟨?_, ?_⟩
  · rw [State.afterSample_nowIn]
    exact List.Pairwise.tail h.1
  · intro m hm n hn
    rw [State.afterSample_nowIn] at hn
    rw [State.afterSample_tLast] at hm
    obtain rfl := Option.some.inj hm
    unfold State.nextSample
    split
    · next h0 => simp [h0] at hn
    · next h0 =>
      rw [h0] at hn
      exact List.rel_of_pairwise_cons (h0 ▸ h.1) hn

end Sys2Proof.Machine
end

