-- ==== Sys2Proof/Laws/Decode.lean ====
section
/-! SUPPORT. The fields of a command word that was put together from its fields (R70), and the values in C (R72). -/

namespace Sys2Proof

theorem toNat_commandWord (op slot : Byte) (a b c : Half) :
    (commandWord op slot a b c).toNat =
      op.toNat * 2 ^ 56 + slot.toNat * 2 ^ 48 + a.toNat * 2 ^ 32 + b.toNat * 2 ^ 16 + c.toNat := by
  unfold commandWord
  simp only [toNat_append_add]
  omega

@[simp] theorem opField_commandWord (op slot : Byte) (a b c : Half) : opField (commandWord op slot a b c) = op := by
  apply BitVec.eq_of_toNat_eq
  simp only [opField, BitVec.extractLsb'_toNat, toNat_commandWord, Nat.shiftRight_eq_div_pow]
  have := op.isLt; have := slot.isLt; have := a.isLt; have := b.isLt; have := c.isLt; omega

@[simp] theorem slotField_commandWord (op slot : Byte) (a b c : Half) :
    slotField (commandWord op slot a b c) = slot := by
  apply BitVec.eq_of_toNat_eq
  simp only [slotField, BitVec.extractLsb'_toNat, toNat_commandWord, Nat.shiftRight_eq_div_pow]
  have := op.isLt; have := slot.isLt; have := a.isLt; have := b.isLt; have := c.isLt; omega

@[simp] theorem aField_commandWord (op slot : Byte) (a b c : Half) : aField (commandWord op slot a b c) = a := by
  apply BitVec.eq_of_toNat_eq
  simp only [aField, BitVec.extractLsb'_toNat, toNat_commandWord, Nat.shiftRight_eq_div_pow]
  have := op.isLt; have := slot.isLt; have := a.isLt; have := b.isLt; have := c.isLt; omega

@[simp] theorem bField_commandWord (op slot : Byte) (a b c : Half) : bField (commandWord op slot a b c) = b := by
  apply BitVec.eq_of_toNat_eq
  simp only [bField, BitVec.extractLsb'_toNat, toNat_commandWord, Nat.shiftRight_eq_div_pow]
  have := op.isLt; have := slot.isLt; have := a.isLt; have := b.isLt; have := c.isLt; omega

@[simp] theorem cField_commandWord (op slot : Byte) (a b c : Half) : cField (commandWord op slot a b c) = c := by
  apply BitVec.eq_of_toNat_eq
  simp only [cField, BitVec.extractLsb'_toNat, toNat_commandWord, Nat.shiftRight_eq_div_pow]
  have := op.isLt; have := slot.isLt; have := a.isLt; have := b.isLt; have := c.isLt; omega

@[simp] theorem byteOfC_cOfByte (v : Byte) : byteOfC (cOfByte v) = v := by
  apply BitVec.eq_of_toNat_eq
  simp only [byteOfC, cOfByte, BitVec.toNat_setWidth]
  have := v.isLt; omega

@[simp] theorem flagOfC_cOfFlag (on : Bool) : flagOfC (cOfFlag on) = on := by cases on <;> rfl

@[simp] theorem cOfByte_high (v : Byte) : (cOfByte v).extractLsb' 8 8 = 0#8 := by
  apply BitVec.eq_of_toNat_eq
  simp only [cOfByte, BitVec.extractLsb'_toNat, BitVec.toNat_setWidth, Nat.shiftRight_eq_div_pow]
  have := v.isLt; simp; omega

@[simp] theorem cOfFlag_high (on : Bool) : (cOfFlag on).extractLsb' 1 15 = 0#15 := by cases on <;> rfl

end Sys2Proof
end

