-- ==== Sys2Proof/Laws/PerInstr.lean ====
section
/-! SUPPORT. Statements for all commands, one lemma per constructor. -/

namespace Sys2Proof.Laws.EncodedOpcode

/-- OP of a command's word is its row's opcode of R73. -/
def Statement (i : Instr) : Prop := opField (encode i) = i.mnemonic.opcode

theorem status : Statement (.status) := opField_commandWord _ _ _ _ _
theorem memGetByte (index : Half) : Statement (.memGetByte index) := opField_commandWord _ _ _ _ _
theorem memSetByte (index : Half) (value : Byte) : Statement (.memSetByte index value) := opField_commandWord _ _ _ _ _
theorem memGetBit (bit : Half) : Statement (.memGetBit bit) := opField_commandWord _ _ _ _ _
theorem memSetBit (bit : Half) (on : Bool) : Statement (.memSetBit bit on) := opField_commandWord _ _ _ _ _
theorem memByteAtStart : Statement (.memByteAtStart) := opField_commandWord _ _ _ _ _
theorem memBitAtStart : Statement (.memBitAtStart) := opField_commandWord _ _ _ _ _
theorem memStartOffset : Statement (.memStartOffset) := opField_commandWord _ _ _ _ _
theorem memDump : Statement (.memDump) := opField_commandWord _ _ _ _ _
theorem bregCfg (slot : Byte) (index : Half) (value : Byte) : Statement (.bregCfg slot index value) := opField_commandWord _ _ _ _ _
theorem bregPull (slot : Byte) : Statement (.bregPull slot) := opField_commandWord _ _ _ _ _
theorem bregPush (slot : Byte) : Statement (.bregPush slot) := opField_commandWord _ _ _ _ _
theorem bregGetBit (slot : Byte) (i : Half) : Statement (.bregGetBit slot i) := opField_commandWord _ _ _ _ _
theorem bregSetBit (slot : Byte) (i : Half) (on : Bool) : Statement (.bregSetBit slot i on) := opField_commandWord _ _ _ _ _
theorem bregValue (slot : Byte) : Statement (.bregValue slot) := opField_commandWord _ _ _ _ _
theorem bregSetValue (slot : Byte) (value : Byte) : Statement (.bregSetValue slot value) := opField_commandWord _ _ _ _ _
theorem wregCfg (slot : Byte) (low high : Half) (value : Half) : Statement (.wregCfg slot low high value) := opField_commandWord _ _ _ _ _
theorem wregPull (slot : Byte) : Statement (.wregPull slot) := opField_commandWord _ _ _ _ _
theorem wregPush (slot : Byte) : Statement (.wregPush slot) := opField_commandWord _ _ _ _ _
theorem wregGetBit (slot : Byte) (i : Half) : Statement (.wregGetBit slot i) := opField_commandWord _ _ _ _ _
theorem wregSetBit (slot : Byte) (i : Half) (on : Bool) : Statement (.wregSetBit slot i on) := opField_commandWord _ _ _ _ _
theorem wregGetComp (slot : Byte) (i : Half) : Statement (.wregGetComp slot i) := opField_commandWord _ _ _ _ _
theorem wregSetComp (slot : Byte) (i : Half) (value : Byte) : Statement (.wregSetComp slot i value) := opField_commandWord _ _ _ _ _
theorem wregValue (slot : Byte) : Statement (.wregValue slot) := opField_commandWord _ _ _ _ _
theorem wregSetValue (slot : Byte) (value : Half) : Statement (.wregSetValue slot value) := opField_commandWord _ _ _ _ _
theorem timerCfg (slot : Byte) (index : Half) (freq : Half) (count : Byte) : Statement (.timerCfg slot index freq count) := opField_commandWord _ _ _ _ _
theorem timerUpdate (slot : Byte) : Statement (.timerUpdate slot) := opField_commandWord _ _ _ _ _
theorem timerValue (slot : Byte) : Statement (.timerValue slot) := opField_commandWord _ _ _ _ _

end Sys2Proof.Laws.EncodedOpcode
end

