-- ==== Sys2Proof/Tests/Slice0.lean ====
section
/-! SUPPORT. The model's own tests. Every expected value is one of the spec's (spec/95_test_vectors.md, the examples of
spec/30_encoding.md and of the rule files) or worked out from a rule by hand; each test names its source. The
`witness_` theorems show, for every statement with hypotheses, a concrete state and operands that meet them all. -/

namespace Sys2Proof.Tests

open Sys2Proof.Machine Sys2Proof.Safety

/-! ### Helpers -/

/-- A configuration of the spec's vectors: CAP, START and the bit orders; INIT all zero, four slots of each kind. -/
def conf (cap : Nat) (start : Half) (memOrder regOrder : BitOrder) : Configuration where
  params :=
    { cap := cap, numBreg := 4, numWreg := 4, numTimer := 4, memBitOrder := memOrder, regBitOrder := regOrder }
  start := start
  init := none

/-- A configuration with `n` slots of each kind. -/
def withCounts (n : Nat) (c : Configuration) : Configuration :=
  { c with params := { c.params with numBreg := n, numWreg := n, numTimer := n } }

/-- CAP 10, START 4, LSB0 / LSB0. -/
def zeroed : State := stateAt (conf 10 4 .lsb0 .lsb0)

/-- CAP 10, START 4, MSB0 / MSB0. -/
def zeroedMsb : State := stateAt (conf 10 4 .msb0 .msb0)

/-- `s` with a byte of memory, byte register 0, word register 0 and timer 0 given. -/
def given (s : State) (mem : Memory) (b : ByteReg) (w : WordReg) (t : Timer) : State :=
  { s with mem := mem, bregs := [(0, b)], wregs := [(0, w)], timers := [(0, t)] }

/-- M[3] = 0x2A, breg 0 on 3, wreg 0 on 3 and 4, a 60 Hz timer 0 on 3 with baseline 0. -/
def busy : State :=
  { given zeroed [(3, 0x2A)] ⟨3, 0x11⟩ ⟨3, 4, 0xA55A⟩ ⟨3, 0, 60, 0⟩ with tLast := some 0 }

/-- The same slots bound to index 10, one past the last byte. -/
def outOfRange : State :=
  { given zeroed [] ⟨10, 0x33⟩ ⟨10, 11, 0xABCD⟩ ⟨10, 5, 60, 0⟩ with tLast := some 0 }

/-- `busy` with M[3] = 2 and a time input: two polls of two samples each, 20 ms apart (V-L1-6). -/
def ticking : State :=
  { busy with mem := [(3, 2)], nowIn := [20000000, 20000000, 40000000, 40000000] }

/-- A halted block: the latch of program P3, cause 0x01, INFO 200. -/
def halted : State :=
  { busy with latch := { faulted := true, cause := 0x01, info := 200 } }

/-- The next state, `none` at a stop. -/
def nextOf : Host.Outcome State Fault Refusal → Option State
  | .next t => some t
  | .fault _ => none
  | .refused _ => none

/-- The last response word after a command. -/
def rsp (i : Instr) (s : State) : Option Rsp :=
  ((nextOf (exec i s)).bind fun t => t.responses.getLast?).map fun r => r.word

/-- Byte `a` after a command. -/
def byteAfter (i : Instr) (s : State) (a : Nat) : Option Byte := (nextOf (exec i s)).map fun t => t.byteAt a

/-- What byte register 0, word register 0 and timer 0 hold after a command. -/
def bregAfter (i : Instr) (s : State) : Option ByteReg := (nextOf (exec i s)).bind fun t => t.breg? 0
def wregAfter (i : Instr) (s : State) : Option WordReg := (nextOf (exec i s)).bind fun t => t.wreg? 0
def timerAfter (i : Instr) (s : State) : Option Timer := (nextOf (exec i s)).bind fun t => t.timer? 0

/-- The last response word after a raw command word (`.word` of the vectors). -/
def rspWord (w : Command) (s : State) : Option Rsp :=
  ((nextOf (step (s.withCommand w))).bind fun t => t.responses.getLast?).map fun r => r.word

/-! ### Well-formedness (R85): an ill-formed term for each check -/

theorem test_wf_accepts : (Written.wellFormed ⟨.wregSetBit, [.slot .w 255, .num 65535, .num 1]⟩) = true := by decide
theorem test_wf_missing_operand : Written.wellFormed ⟨.memSetByte, [.num 4]⟩ = false := by decide
theorem test_wf_extra_operand : Written.wellFormed ⟨.memDump, [.num 4]⟩ = false := by decide
theorem test_wf_wrong_letter : Written.wellFormed ⟨.bregPull, [.slot .w 0]⟩ = false := by decide
theorem test_wf_slot_too_wide : Written.wellFormed ⟨.timerUpdate, [.slot .t 256]⟩ = false := by decide
theorem test_wf_index_too_wide : Written.wellFormed ⟨.memGetByte, [.num 65536]⟩ = false := by decide
theorem test_wf_byte_too_wide : Written.wellFormed ⟨.memSetByte, [.num 4, .num 256]⟩ = false := by decide
theorem test_wf_flag_too_wide : Written.wellFormed ⟨.memSetBit, [.num 4, .num 2]⟩ = false := by decide
theorem test_wf_number_for_slot : Written.wellFormed ⟨.bregValue, [.num 0]⟩ = false := by decide
theorem test_wf_slot_for_number : Written.wellFormed ⟨.memGetByte, [.slot .b 0]⟩ = false := by decide

/-! ### Configurations (R7, R240, R243 and the list at the end of V-L2-RST-1) -/

theorem test_config_smallest : legalConfiguration (conf 1 0 .lsb0 .lsb0) = true := by decide
theorem test_config_largest : legalConfiguration (conf 8191 8190 .msb0 .msb0) = true := by
  simp only [legalConfiguration, conf, initialBytes, Option.getD_none, List.length_replicate]
  decide
theorem test_config_documented_default : legalConfiguration (conf 512 0x200 .lsb0 .lsb0) = false := by
  simp [legalConfiguration, conf]
theorem test_config_cap_zero : legalConfiguration (conf 0 0 .lsb0 .lsb0) = false := by decide
theorem test_config_cap_too_large : legalConfiguration (conf 8192 0 .lsb0 .lsb0) = false := by
  simp [legalConfiguration, conf]
theorem test_config_start_at_cap : legalConfiguration (conf 10 10 .lsb0 .lsb0) = false := by decide
theorem test_config_init_length :
    legalConfiguration { conf 4 2 .lsb0 .lsb0 with init := some [1, 2, 3] } = false := by decide
theorem test_config_counts :
    legalCount 0 = false ∧ legalCount 1 = true ∧ legalCount 256 = true ∧ legalCount 257 = false := by decide

/-- `State.reset` is the reset state of its configuration. -/
theorem test_reset_is_stateAt : State.reset = stateAt Config.resetConfiguration := by decide

/-- V-L2-RST-1: CAP 4, START 2, INIT 01 02 03 04: the dump, the byte and the bit at START, under LSB0 and MSB0. -/
theorem test_reset_with_contents :
    (rsp .memByteAtStart (stateAt { conf 4 2 .lsb0 .lsb0 with init := some [1, 2, 3, 4] }) = some 0x00000003) ∧
    (rsp .memBitAtStart (stateAt { conf 4 2 .lsb0 .lsb0 with init := some [1, 2, 3, 4] }) = some 0x00000001) ∧
    (rsp .memBitAtStart (stateAt { conf 4 2 .msb0 .lsb0 with init := some [1, 2, 3, 4] }) = some 0x00000000) ∧
    (stateAt { conf 4 2 .lsb0 .lsb0 with init := some [1, 2, 3, 4] }).snapshot = [1, 2, 3, 4] := by decide

/-- Program P3: a reset clears the latch, the memory and the slots, and the time source keeps its samples (log entry
6). -/
theorem test_reset_input :
    nextOf (step { halted with inputs := [.reset (conf 10 4 .lsb0 .lsb0)], nowIn := [7] }) =
      some { zeroed with nowIn := [7] } := by decide

/-! ### Decoding: every command by a word of the spec, and the rejected words -/

/-- V-L2-STATUS-1 -/
theorem test_decode_status : decode 0x0100000000000000 = .ok .status := by rfl
/-- V-L1-9 -/
theorem test_decode_mem_get_byte : decode 0x1000FFFF00000000 = .ok (.memGetByte 0xFFFF) := by rfl
/-- V-L1-8 -/
theorem test_decode_mem_set_byte : decode 0x11000004000000FF = .ok (.memSetByte 4 0xFF) := by rfl
/-- V-L2-MEM-3 -/
theorem test_decode_mem_get_bit : decode 0x1200FFF800000000 = .ok (.memGetBit 65528) := by rfl
/-- V-L2-MEM-3 -/
theorem test_decode_mem_set_bit : decode 0x1300FFFF00000001 = .ok (.memSetBit 65535 true) := by rfl
/-- V-L1-8 -/
theorem test_decode_mem_byte_at_start : decode 0x1400000000000000 = .ok .memByteAtStart := by rfl
/-- V-L1-8 -/
theorem test_decode_mem_bit_at_start : decode 0x1500000000000000 = .ok .memBitAtStart := by rfl
/-- V-L2-MEM-1 -/
theorem test_decode_mem_start_offset : decode 0x1600000000000000 = .ok .memStartOffset := by rfl
/-- V-L2-MEM-1 -/
theorem test_decode_mem_dump : decode 0x1700000000000000 = .ok .memDump := by rfl
/-- V-L2-BREG-1 -/
theorem test_decode_breg_cfg : decode 0x2001000300000000 = .ok (.bregCfg 1 3 0) := by rfl
/-- V-L2-BREG-3 -/
theorem test_decode_breg_pull : decode 0x2103000000000000 = .ok (.bregPull 3) := by rfl
/-- V-L2-BREG-1 -/
theorem test_decode_breg_push : decode 0x2201000000000000 = .ok (.bregPush 1) := by rfl
/-- V-L1-9 -/
theorem test_decode_breg_get_bit : decode 0x23000000FFFF0000 = .ok (.bregGetBit 0 0xFFFF) := by rfl
/-- V-L1-5 -/
theorem test_decode_breg_set_bit : decode 0x2400000000070001 = .ok (.bregSetBit 0 7 true) := by rfl
/-- V-L2-BREG-3 -/
theorem test_decode_breg_value : decode 0x2504000000000000 = .ok (.bregValue 4) := by rfl
/-- V-L2-BREG-1 -/
theorem test_decode_breg_set_value : decode 0x260100000000005C = .ok (.bregSetValue 1 0x5C) := by rfl
/-- P3 -/
theorem test_decode_wreg_cfg : decode 0x3001000200C8ABCD = .ok (.wregCfg 1 2 200 0xABCD) := by rfl
/-- V-L1-3 -/
theorem test_decode_wreg_pull : decode 0x3101000000000000 = .ok (.wregPull 1) := by rfl
/-- V-L1-3 -/
theorem test_decode_wreg_push : decode 0x3201000000000000 = .ok (.wregPush 1) := by rfl
/-- V-L1-9 -/
theorem test_decode_wreg_get_bit : decode 0x3300000000100000 = .ok (.wregGetBit 0 16) := by rfl
/-- P2 -/
theorem test_decode_wreg_set_bit : decode 0x3400000000000001 = .ok (.wregSetBit 0 0 true) := by rfl
/-- V-L1-9 -/
theorem test_decode_wreg_get_comp : decode 0x3500000000020000 = .ok (.wregGetComp 0 2) := by rfl
/-- P2 -/
theorem test_decode_wreg_set_comp : decode 0x3600000000010034 = .ok (.wregSetComp 0 1 0x34) := by rfl
/-- V-L1-3 -/
theorem test_decode_wreg_value : decode 0x3701000000000000 = .ok (.wregValue 1) := by rfl
/-- V-L1-3 -/
theorem test_decode_wreg_set_value : decode 0x380000000000A55A = .ok (.wregSetValue 0 0xA55A) := by rfl
/-- V-L1-6 -/
theorem test_decode_timer_cfg : decode 0x40000003003C0002 = .ok (.timerCfg 0 3 60 2) := by rfl
/-- V-L1-6 -/
theorem test_decode_timer_update : decode 0x4100000000000000 = .ok (.timerUpdate 0) := by rfl
/-- V-L1-6 -/
theorem test_decode_timer_value : decode 0x4200000000000000 = .ok (.timerValue 0) := by rfl

/-- Operands in their own fields (R70): every field of WREG_CFG and TIMER_CFG different. -/
theorem test_decode_fields :
    decode 0x3001020304050607 = .ok (.wregCfg 1 0x0203 0x0405 0x0607) ∧
    decode 0x4001020304050007 = .ok (.timerCfg 1 0x0203 0x0405 0x07) := ⟨rfl, rfl⟩

/-- R77 and V-L2-STATUS-1: STATUS with any other bits. -/
theorem test_decode_status_any : decode 0x01FFFFFFFFFFFFFF = .ok .status := by rfl

/-- V-L2-DEC-1: unassigned opcodes, just outside each block of R73. -/
theorem test_decode_illegal_opcodes :
    decode 0 = .error (.illegalOpcode 0) ∧ decode 0x0200000000000000 = .error (.illegalOpcode 0x02) ∧
    decode 0x0F00000000000000 = .error (.illegalOpcode 0x0F) ∧
    decode 0x1800000000000000 = .error (.illegalOpcode 0x18) ∧
    decode 0x2700000000000000 = .error (.illegalOpcode 0x27) ∧
    decode 0x3900000000000000 = .error (.illegalOpcode 0x39) ∧
    decode 0x4300000000000000 = .error (.illegalOpcode 0x43) ∧
    decode 0xFFFFFFFFFFFFFFFF = .error (.illegalOpcode 0xFF) := ⟨rfl, rfl, rfl, rfl, rfl, rfl, rfl, rfl⟩

/-- V-L2-DEC-1 rows 6 to 10: a reserved bit that is one. -/
theorem test_decode_reserved_bits :
    decode 0x1001000400000000 = .error (.reservedBits 0x10) ∧
    decode 0x1100000400000100 = .error (.reservedBits 0x11) ∧
    decode 0x1300000400000002 = .error (.reservedBits 0x13) ∧
    decode 0x2504000100000000 = .error (.reservedBits 0x25) ∧
    decode 0x2100000000010000 = .error (.reservedBits 0x21) := ⟨rfl, rfl, rfl, rfl, rfl⟩

/-- V-L2-DEC-1: the response to such words, and check order: the reserved bits before the slot (row 9). -/
theorem test_illegal_words_answer :
    rspWord 0xFFFFFFFFFFFFFFFF zeroed = some 0x101000FF ∧ rspWord 0x1001000400000000 zeroed = some 0x10100010 ∧
    rspWord 0x2504000100000000 zeroed = some 0x10100025 ∧ rspWord 0x2104000000000000 zeroed = some 0x10110004 := by
  decide

/-- R85 and the vectors: written lines and their words; refused lines. -/
theorem test_assemble_lines :
    assembleLine "mem_set_byte 4, 0xFF" = some 0x11000004000000FF ∧
    assembleLine "wreg_cfg w1, 2, 200, 0xABCD" = some 0x3001000200C8ABCD ∧
    assembleLine "timer_cfg t0, 3, 60, 2" = some 0x40000003003C0002 ∧
    assembleLine "status" = some 0x0100000000000000 := by decide
theorem test_assemble_refuses :
    assembleLine "breg_pull w0" = none ∧ assembleLine "mem_set_byte 4, 256" = none ∧
    assembleLine "mem_get_byte" = none ∧ assembleLine "wreg_value w256" = none := by decide

/-! ### One step of each command -/

/-- The first step after reset runs the word on the port. -/
theorem test_first_step : step (State.reset.withFetchWord 64 0x11000004000000FF) = exec (.memSetByte 4 0xFF) State.reset := by
  rfl

/-- V-L2-STATUS-1 and P3 step 6: STATUS on a running and on a halted block. -/
theorem test_status : rsp .status zeroed = some 0 ∧ rsp .status halted = some 0x000100C8 := by decide

/-- P3 steps 4 and 5, and R213: a halted block answers FAULTED to a legal word and to an illegal one. -/
theorem test_halted :
    rsp (.memGetByte 2) halted = some 0x200100C8 ∧ byteAfter (.memSetByte 3 0) halted 3 = some 0x2A ∧
    rspWord 0xFFFFFFFFFFFFFFFF halted = some 0x200100C8 := by decide

/-- V-L1-9 rows 1, 3, 5. -/
theorem test_mem_get_byte :
    rsp (.memGetByte 10) zeroed = some 0x1001000A ∧ rsp (.memGetByte 0xFFFF) zeroed = some 0x1001FFFF ∧
    rsp (.memGetByte 9) zeroed = some 0 := by decide

/-- V-L1-1 step 5 and V-L1-9 row 4. -/
theorem test_mem_set_byte :
    byteAfter (.memSetByte 9 0xFF) zeroed 9 = some 0xFF ∧ rsp (.memSetByte 9 0xFF) zeroed = some 0 ∧
    rsp (.memSetByte 10 0x77) zeroed = some 0x1001000A := by decide

/-- V-L2-MEM-1 and V-L2-MEM-2 steps 2 and 3: bits 0 and 7 of 0x80 under both orders. -/
theorem test_mem_get_bit :
    rsp (.memGetBit 0) { zeroed with mem := [(0, 0x80)] } = some 0 ∧
    rsp (.memGetBit 7) { zeroed with mem := [(0, 0x80)] } = some 1 ∧
    rsp (.memGetBit 0) { zeroedMsb with mem := [(0, 0x80)] } = some 1 ∧
    rsp (.memGetBit 7) { zeroedMsb with mem := [(0, 0x80)] } = some 0 := by decide

/-- V-L1-10: bit 79 exists, 80 is past the end, 81 is out of range. -/
theorem test_mem_get_bit_boundary :
    rsp (.memGetBit 79) zeroed = some 0 ∧ rsp (.memGetBit 80) zeroed = some 0x10060050 ∧
    rsp (.memGetBit 81) zeroed = some 0x10020051 := by decide

/-- V-L1-2 steps 1, 5, 7 and their MSB0 twins; V-L1-10 row 5. -/
theorem test_mem_set_bit :
    byteAfter (.memSetBit 13 true) zeroed 1 = some 0x20 ∧
    byteAfter (.memSetBit 13 false) { zeroed with mem := [(1, 0x30)] } 1 = some 0x10 ∧
    byteAfter (.memSetBit 13 true) zeroedMsb 1 = some 0x04 ∧
    rsp (.memSetBit 80 true) zeroed = some 0x10060050 := by decide

/-- V-L1-8 steps 2, 4, 8 and its MSB0 note; V-L2-MEM-1 step 12. -/
theorem test_start_commands :
    rsp .memByteAtStart { zeroed with mem := [(4, 0xFF)] } = some 0x000000FF ∧
    rsp .memBitAtStart { zeroed with mem := [(4, 0x01)] } = some 1 ∧
    rsp .memBitAtStart { zeroedMsb with mem := [(4, 0x80)] } = some 1 ∧
    rsp .memStartOffset zeroed = some 0x00000004 := by decide

/-- V-L2-MEM-1 step 15. -/
theorem test_mem_dump :
    ((nextOf (exec .memDump { zeroed with mem := [(1, 0x82), (9, 0xFF)] })).map fun t => t.responses) =
      some [{ word := 0x0000000A, dump := [0, 0x82, 0, 0, 0, 0, 0, 0, 0, 0xFF] }] := by decide

/-- V-L2-BREG-1 step 2 and V-L2-BREG-3 rows 4 and 8: the index is not checked, the slot is. -/
theorem test_breg_cfg :
    bregAfter (.bregCfg 0 10 0x11) zeroed = some ⟨10, 0x11⟩ ∧
    rsp (.bregCfg 4 0 0) zeroed = some 0x10110004 := by decide

/-- V-L2-BREG-1 step 4; V-L2-BREG-3 row 5. -/
theorem test_breg_pull :
    bregAfter (.bregPull 0) busy = some ⟨3, 0x2A⟩ ∧ rsp (.bregPull 0) outOfRange = some 0x1001000A := by decide

/-- V-L2-BREG-1 step 8 in kind; V-L2-BREG-3 row 6. -/
theorem test_breg_push :
    byteAfter (.bregPush 0) busy 3 = some 0x11 ∧ rsp (.bregPush 0) outOfRange = some 0x1001000A := by decide

/-- R129 on cache 0x11 (bits of weight 2^4 and 2^0): index 0 and 3 under each order; V-L2-BREG-3 row 1. -/
theorem test_breg_get_bit :
    rsp (.bregGetBit 0 0) busy = some 1 ∧ rsp (.bregGetBit 0 3) busy = some 0 ∧
    rsp (.bregGetBit 0 3) (given zeroedMsb [] ⟨3, 0x11⟩ ⟨3, 4, 0⟩ ⟨3, 0, 60, 0⟩) = some 1 ∧
    rsp (.bregGetBit 0 8) busy = some 0x10030008 := by decide

/-- V-L1-5 step 6 and V-L2-BREG-2 step 2; memory is not written (V-L1-5 step 7). -/
theorem test_breg_set_bit :
    bregAfter (.bregSetBit 0 7 true) (given zeroed [] ⟨3, 0x09⟩ ⟨3, 4, 0⟩ ⟨3, 0, 60, 0⟩) = some ⟨3, 0x89⟩ ∧
    bregAfter (.bregSetBit 0 0 true) (given zeroedMsb [] ⟨3, 0⟩ ⟨3, 4, 0⟩ ⟨3, 0, 60, 0⟩) = some ⟨3, 0x80⟩ ∧
    byteAfter (.bregSetBit 0 7 true) busy 3 = some 0x2A := by decide

/-- V-L2-BREG-1 step 3; V-L2-BREG-3 rows 7 and 9. -/
theorem test_breg_value :
    rsp (.bregValue 0) busy = some 0x00000011 ∧ rsp (.bregValue 4) busy = some 0x10110004 ∧
    rsp (.bregValue 1) busy = some 0x10120001 := by decide

/-- V-L1-5 steps 2 and 3. -/
theorem test_breg_set_value :
    bregAfter (.bregSetValue 0 9) busy = some ⟨3, 9⟩ ∧ byteAfter (.bregSetValue 0 9) busy 3 = some 0x2A := by decide

/-- V-L1-4 rows 3 and 4, V-L1-3 step 9. -/
theorem test_wreg_cfg :
    rsp (.wregCfg 3 20 20 0xFFFF) zeroed = some 0x10050014 ∧
    wregAfter (.wregCfg 0 9 1 0x0102) zeroed = some ⟨9, 1, 0x0102⟩ := by decide

/-- P2 step 11: the byte at `lo` is the most significant one, here at the higher index. -/
theorem test_wreg_pull :
    wregAfter (.wregPull 0) (given zeroed [(8, 0xB5), (9, 0x12)] ⟨3, 0⟩ ⟨9, 8, 0x1235⟩ ⟨3, 0, 60, 0⟩) =
      some ⟨9, 8, 0x12B5⟩ ∧
    rsp (.wregPull 0) outOfRange = some 0x1001000A := by decide

/-- V-L1-3 step 3 in kind, and P3 step 3: the partial push. -/
theorem test_wreg_push :
    byteAfter (.wregPush 0) busy 3 = some 0xA5 ∧ byteAfter (.wregPush 0) busy 4 = some 0x5A ∧
    byteAfter (.wregPush 0) (given zeroed [] ⟨3, 0⟩ ⟨2, 200, 0xABCD⟩ ⟨3, 0, 60, 0⟩) 2 = some 0xAB ∧
    rsp (.wregPush 0) (given zeroed [] ⟨3, 0⟩ ⟨2, 200, 0xABCD⟩ ⟨3, 0, 60, 0⟩) = some 0x100100C8 := by decide

/-- P4 step 13 under LSB0; R129 under MSB0 (cache 0x8040: index 0 and 9 name the ones); V-L1-9 row 8. -/
theorem test_wreg_get_bit :
    rsp (.wregGetBit 0 1) (given zeroed [] ⟨3, 0⟩ ⟨0, 1, 0x0102⟩ ⟨3, 0, 60, 0⟩) = some 1 ∧
    rsp (.wregGetBit 0 9) (given zeroedMsb [] ⟨3, 0⟩ ⟨0, 1, 0x8040⟩ ⟨3, 0, 60, 0⟩) = some 1 ∧
    rsp (.wregGetBit 0 16) busy = some 0x10030010 := by decide

/-- P2 step 4, and R129 under MSB0: index 0 has weight 2^15. -/
theorem test_wreg_set_bit :
    wregAfter (.wregSetBit 0 0 true) (given zeroed [] ⟨3, 0⟩ ⟨9, 8, 0x1234⟩ ⟨3, 0, 60, 0⟩) = some ⟨9, 8, 0x1235⟩ ∧
    wregAfter (.wregSetBit 0 0 true) (given zeroedMsb [] ⟨3, 0⟩ ⟨9, 8, 0x1234⟩ ⟨3, 0, 60, 0⟩) =
      some ⟨9, 8, 0x9234⟩ := by decide

/-- R155 on cache 0xA55A; V-L1-9 row 9. -/
theorem test_wreg_get_comp :
    rsp (.wregGetComp 0 0) busy = some 0x000000A5 ∧ rsp (.wregGetComp 0 1) busy = some 0x0000005A ∧
    rsp (.wregGetComp 0 2) busy = some 0x10040002 := by decide

/-- P2 steps 2 and 3. -/
theorem test_wreg_set_comp :
    wregAfter (.wregSetComp 0 0 0x12) (given zeroed [] ⟨3, 0⟩ ⟨9, 8, 0⟩ ⟨3, 0, 60, 0⟩) = some ⟨9, 8, 0x1200⟩ ∧
    wregAfter (.wregSetComp 0 1 0x34) (given zeroed [] ⟨3, 0⟩ ⟨9, 8, 0x1200⟩ ⟨3, 0, 60, 0⟩) =
      some ⟨9, 8, 0x1234⟩ := by decide

/-- V-L1-3 steps 8 and 2. -/
theorem test_wreg_value : rsp (.wregValue 0) busy = some 0x0000A55A := by decide
theorem test_wreg_set_value :
    wregAfter (.wregSetValue 0 0x0102) busy = some ⟨3, 4, 0x0102⟩ ∧
    byteAfter (.wregSetValue 0 0x0102) busy 3 = some 0x2A := by decide

/-- V-L1-6 step 1 with the sample 5; R182: frequency 0 is refused before NOW is sampled. -/
theorem test_timer_cfg :
    timerAfter (.timerCfg 0 3 60 2) { zeroed with nowIn := [5] } = some ⟨3, 2, 60, 5⟩ ∧
    rsp (.timerCfg 0 3 0 2) { zeroed with nowIn := [5] } = some 0x10130000 := by decide

/-- V-L1-6 step 4: the tick, its event, the decrement, the second sample as the new baseline. -/
theorem test_timer_update_ticks :
    rsp (.timerUpdate 0) ticking = some 3 ∧ byteAfter (.timerUpdate 0) ticking 3 = some 1 ∧
    timerAfter (.timerUpdate 0) ticking = some ⟨3, 1, 60, 20000000⟩ ∧
    ((nextOf (exec (.timerUpdate 0) ticking)).map fun t => t.events) =
      some [{ slot := 0, value := 2, elapsed := 20000000 }] := by decide

/-- V-L2-TIMER-1: at 60 Hz 16666666 ns is no tick and 16666667 ns is one; V-L1-7 run 2: a pulled zero stops. -/
theorem test_timer_update_boundary :
    rsp (.timerUpdate 0) { ticking with nowIn := [16666666] } = some 1 ∧
    rsp (.timerUpdate 0) { ticking with nowIn := [16666667, 16666667] } = some 3 ∧
    rsp (.timerUpdate 0) { ticking with mem := [], nowIn := [] } = some 0 ∧
    rsp (.timerUpdate 0) outOfRange = some 0x1001000A := by decide

/-- V-L1-6 step 3 in kind: the cache, not the memory. -/
theorem test_timer_value :
    rsp (.timerValue 0) { busy with timers := [(0, ⟨3, 2, 60, 0⟩)] } = some 2 ∧
    rsp (.timerValue 1) busy = some 0x10120001 := by decide

/-- R231 and log entry 4: a sample below an earlier one has no move. -/
theorem test_time_going_back :
    exec (.timerCfg 0 3 60 2) { busy with tLast := some 9, nowIn := [8] } = .fault .nowBelowEarlierSample ∧
    exec (.timerUpdate 0) { busy with tLast := some 9, nowIn := [8] } = .fault .nowBelowEarlierSample ∧
    exec (.timerUpdate 0) { ticking with nowIn := [20000000, 19999999] } = .fault .nowBelowEarlierSample :=
  ⟨rfl, rfl, rfl⟩

/-! ### Witnesses: a state and operands that meet each statement's hypotheses, clause by clause -/

/-- A legal configuration at the lower bounds of R7 (for InvHoldsAtEveryReset). -/
theorem legal_smallest : Legal (withCounts 1 (conf 1 0 .lsb0 .lsb0)) :=
  ⟨by decide, by decide, by decide, fun _ h => (by cases h), by decide, by decide, by decide⟩

/-- A legal configuration at the upper bounds of R7. -/
theorem legal_largest : Legal (withCounts 256 (conf 8191 8190 .msb0 .msb0)) :=
  ⟨by decide, by decide, by decide, fun _ h => (by cases h), by decide, by decide, by decide⟩

/-- A legal configuration that gives INIT. -/
theorem legal_with_init : Legal { conf 4 2 .lsb0 .lsb0 with init := some [1, 2, 3, 4] } :=
  ⟨by decide, by decide, by decide, fun _ h => (by cases h; rfl), by decide, by decide, by decide⟩

theorem ticking_timeInputOk : TimeInputOk ticking := by
  refine ⟨by decide, fun m h n _ => ?_⟩
  obtain rfl : (0 : Time) = m := Option.some.inj h
  exact BitVec.le_def.2 (Nat.zero_le _)

theorem busy_timeInputOk : TimeInputOk busy := ⟨List.Pairwise.nil, fun _ _ _ h => by cases h⟩

theorem witness_decode_no_row : ∀ row ∈ opcodeTable, (0 : Command) &&& row.2.2 ≠ row.2.1 := by decide

theorem witness_illegal_opcode :
    Running zeroed ∧ (opField 0).toNat = 0 ∧ (opField 0x0200000000000000).toNat = 0x02 ∧
    (opField 0x0F00000000000000).toNat = 0x0F ∧ (opField 0x1800000000000000).toNat = 0x18 ∧
    (opField 0x1F00000000000000).toNat = 0x1F ∧ (opField 0x2700000000000000).toNat = 0x27 ∧
    (opField 0x2F00000000000000).toNat = 0x2F ∧ (opField 0x3900000000000000).toNat = 0x39 ∧
    (opField 0x3F00000000000000).toNat = 0x3F ∧ (opField 0x4300000000000000).toNat = 0x43 ∧
    (opField 0xFFFFFFFFFFFFFFFF).toNat = 0xFF := ⟨rfl, rfl, rfl, rfl, rfl, rfl, rfl, rfl, rfl, rfl, rfl, rfl⟩

theorem witness_reserved_bit :
    Running zeroed ∧
    ((.memGetByte, 0x1000000000000000, 0xffff0000ffffffff) : Mnemonic × Command × Command) ∈ opcodeTable ∧
    Mnemonic.memGetByte ≠ .status ∧ opField 0x1001000400000000 = opField 0x1000000000000000 ∧
    (0x1001000400000000 : Command) &&& 0xffff0000ffffffff ≠ 0x1000000000000000 :=
  ⟨rfl, by decide, by decide, rfl, by decide⟩

theorem witness_status_word : opField 0x01FFFFFFFFFFFFFF = 0x01 := by rfl

theorem witness_bad_operand :
    (Mnemonic.form .memSetByte)[1]? = some (.num 8) ∧ 2 ^ 8 ≤ 256 ∧
    (Mnemonic.form .timerUpdate)[0]? = some (.slot .t) ∧ 256 ≤ 256 ∧
    (Mnemonic.form .bregPull)[0]? = some (.slot .b) ∧ SlotKind.b ≠ .w := by decide

theorem witness_step_runs :
    (zeroed.withCommand 0x11000004000000FF).commandOnPort = some 0x11000004000000FF ∧
    decode 0x11000004000000FF = .ok (.memSetByte 4 0xFF) ∧
    decodeTableWord 64 0x11000004000000FF = some (.memSetByte 4 0xFF) := ⟨rfl, rfl, rfl⟩

theorem witness_idle : zeroed.inputs = [] := by rfl

/-- For ResetGivesResetValues, DocumentedDefaultIsRefused (no INIT) and OnlyResetClearsLatchAndParameters: a halted
block and a legal reset. -/
theorem witness_reset_legal : ∃ c rest, ({ halted with inputs := [.reset (conf 1 0 .lsb0 .lsb0)] } : State).inputs =
    .reset c :: rest ∧ Legal c ∧ c.init = none :=
  ⟨_, _, rfl, ⟨by decide, by decide, by decide, fun _ h => (by cases h), by decide, by decide, by decide⟩, rfl⟩

theorem witness_reset_illegal : ∃ c rest, ({ zeroed with inputs := [.reset (conf 10 10 .lsb0 .lsb0)] } : State).inputs =
    .reset c :: rest ∧ ¬ Legal c :=
  ⟨_, _, rfl, fun h => absurd h.2.2.1 (by decide)⟩

theorem witness_documented_default :
    ({ zeroed with inputs := [.reset (conf 512 0x200 .lsb0 .lsb0)] } : State).inputs =
      [.reset (conf 512 0x200 .lsb0 .lsb0)] ∧
    (conf 512 0x200 .lsb0 .lsb0).params.cap = 512 ∧ (conf 512 0x200 .lsb0 .lsb0).start = 0x200 := ⟨rfl, rfl, rfl⟩

/-- A state with memory, slots and a TICK to come satisfies the invariant, and its next step is a next state. -/
theorem witness_inv_kept : Inv (ticking.withCommand 0x4100000000000000) ∧
    ∃ t, step (ticking.withCommand 0x4100000000000000) = .next t where
  left :=
    { params := by unfold ParamsLegal; decide
      mem := by unfold MemoryOk; decide
      slots := by unfold SlotsOk; decide
      wregs := by unfold WregsOk; decide
      timers := by
        intro e he
        obtain rfl : e = (0, ⟨3, 0, 60, 0⟩) := by simpa [ticking, busy, given, State.withCommand] using he
        exact ⟨by decide, 0, rfl, by decide⟩
      latch := by unfold LatchOk; decide
      events := by intro e he; cases he
      responses := by intro r hr; cases hr }
  right := ⟨_, rfl⟩

theorem witness_halted : halted.latch.faulted = true ∧ opField 0x1000000200000000 ≠ 0x01 ∧
    opField 0xFFFFFFFFFFFFFFFF ≠ 0x01 ∧ opField 0x0100000000000000 = 0x01 := by decide

theorem witness_latch_kept : (∃ t, step (halted.withCommand 0x1000000200000000) = .next t) ∧
    (∀ c rest, (halted.withCommand 0x1000000200000000).inputs ≠ .reset c :: rest) ∧
    (halted.withCommand 0x1000000200000000).latch.faulted = true :=
  ⟨⟨_, rfl⟩, fun _ _ h => (by cases h), rfl⟩

/-- One word for each ST: OK, FAULT, FAULTED. -/
theorem witness_one_response : (∃ t, step (zeroed.withCommand 0x1000000900000000) = .next t) ∧
    (∃ t, step (zeroed.withCommand 0x1000000A00000000) = .next t) ∧
    (∃ t, step (halted.withCommand 0x1000000900000000) = .next t) := ⟨⟨_, rfl⟩, ⟨_, rfl⟩, ⟨_, rfl⟩⟩

theorem witness_memory_frame :
    ((∃ t, exec (.wregPush 0) busy = .next t) ∧ 2 ∉ storedAt (.wregPush 0) busy ∧ 5 ∉ storedAt (.wregPush 0) busy) ∧
    ((∃ t, exec (.bregPull 0) busy = .next t) ∧ 3 ∉ storedAt (.bregPull 0) busy) :=
  ⟨⟨⟨_, rfl⟩, by decide, by decide⟩, ⟨_, rfl⟩, by decide⟩

theorem witness_slot_frame :
    (∃ t, exec (.bregPull 0) busy = .next t) ∧ writtenSlot (.bregPull 0) ≠ some (.b, 1) ∧
    writtenSlot (.bregPull 0) ≠ some (.w, 0) ∧ writtenSlot (.bregPull 0) ≠ some (.t, 0) :=
  ⟨⟨_, rfl⟩, by decide, by decide, by decide⟩

theorem witness_bindings :
    (∃ t, exec (.timerUpdate 0) ticking = .next t) ∧ isConstruct (.timerUpdate 0) = false ∧
    ticking.breg? 0 = some ⟨3, 0x11⟩ ∧ ticking.wreg? 0 = some ⟨3, 4, 0xA55A⟩ ∧
    ticking.timer? 0 = some ⟨3, 0, 60, 0⟩ ∧ ticking.breg? 1 = none ∧ ticking.wreg? 1 = none ∧
    ticking.timer? 1 = none := ⟨⟨_, rfl⟩, rfl, rfl, rfl, rfl, rfl, rfl, rfl⟩

theorem witness_rest_frame :
    (∃ t, exec (.wregPush 0) busy = .next t) ∧ (∀ slot, Instr.wregPush 0 ≠ .timerUpdate slot) ∧
    samplesNow (.wregPush 0) = false := ⟨⟨_, rfl⟩, fun _ h => (by cases h), rfl⟩

theorem witness_clock : (∃ t, exec (.timerUpdate 0) ticking = .next t) ∧ ticking.tLast = some 0 ∧
    ∃ t, sampleNow ticking (fun _ s => respond s 0) = .next t := ⟨⟨_, rfl⟩, rfl, ⟨_, rfl⟩⟩

theorem witness_time_goes_back :
    Running { busy with tLast := some 9, nowIn := [8] } ∧ (0 : Byte).toNat < busy.params.numTimer ∧ (60 : Half) ≠ 0 ∧
    (8 : Time) < 9 ∧ busy.timer? 0 = some ⟨3, 0, 60, 0⟩ ∧ (3 : Half).toNat < busy.params.cap ∧ busy.byteAt 3 ≠ 0 :=
  ⟨rfl, by decide, by decide, by decide, rfl, by decide, by decide⟩

/-- The second sample of a tick one nanosecond below the check sample. -/
theorem witness_time_goes_back_in_tick :
    Running { ticking with nowIn := [20000000, 19999999] } ∧ ticking.timer? 0 = some ⟨3, 0, 60, 0⟩ ∧
    ticking.tLast = some 0 ∧ (0 : Time) ≤ 20000000 ∧ TickDue ⟨3, 0, 60, 0⟩ 20000000 ∧ (19999999 : Time) < 20000000 :=
  ⟨rfl, rfl, rfl, by decide, by unfold TickDue; decide, by decide⟩

/-- The first slot that does not exist, for each kind. -/
theorem witness_slot_range :
    Running busy ∧ slotOf (.bregCfg 4 0 0) = some (.b, 4) ∧ slotCount busy .b ≤ (4 : Byte).toNat ∧
    slotOf (.wregPull 4) = some (.w, 4) ∧ slotCount busy .w ≤ (4 : Byte).toNat ∧
    slotOf (.timerValue 255) = some (.t, 255) ∧ slotCount busy .t ≤ (255 : Byte).toNat :=
  ⟨rfl, rfl, by decide, rfl, by decide, rfl, by decide⟩

theorem witness_unconstructed :
    Running busy ∧ isConstruct (.bregPull 3) = false ∧ slotOf (.bregPull 3) = some (.b, 3) ∧
    (3 : Byte).toNat < slotCount busy .b ∧ constructed busy .b 3 = false ∧ constructed busy .w 3 = false ∧
    constructed busy .t 3 = false := ⟨rfl, rfl, rfl, by decide, rfl, rfl, rfl⟩

/-- The byte clauses of MEM_GET_BYTE and MEM_SET_BYTE at 9 and 10, and the bit clauses of MEM_GET_BIT and MEM_SET_BIT at
79, 80 and 81, with CAP 10 (for the four statements, and ByteRoundTrip). -/
theorem witness_memory_commands :
    Running zeroed ∧ (9 : Half).toNat < zeroed.params.cap ∧ zeroed.params.cap ≤ (10 : Half).toNat ∧
    (79 : Half).toNat < zeroed.params.cap * 8 ∧ (80 : Half).toNat = zeroed.params.cap * 8 ∧
    zeroed.params.cap * 8 < (81 : Half).toNat := ⟨rfl, by decide, by decide, by decide, by decide, by decide⟩

theorem witness_start_commands : Running zeroed ∧ zeroed.start.toNat < zeroed.params.cap := ⟨rfl, by decide⟩

theorem witness_mem_dump : Running zeroed ∧ zeroed.params.cap ≤ 8191 := ⟨rfl, by decide⟩

/-- For every byte register statement, PullPushIdentity among them: slot 0 with its index inside and outside memory,
bits 7 and 8. -/
theorem witness_breg_commands :
    (Running busy ∧ (0 : Byte).toNat < busy.params.numBreg ∧ busy.breg? 0 = some ⟨3, 0x11⟩ ∧
      (3 : Half).toNat < busy.params.cap) ∧
    (Running outOfRange ∧ (0 : Byte).toNat < outOfRange.params.numBreg ∧ outOfRange.breg? 0 = some ⟨10, 0x33⟩ ∧
      outOfRange.params.cap ≤ (10 : Half).toNat) ∧
    (7 : Half).toNat < 8 ∧ 8 ≤ (8 : Half).toNat :=
  ⟨⟨rfl, by decide, rfl, by decide⟩, ⟨rfl, by decide, rfl, by decide⟩, by decide, by decide⟩

/-- BREG_CFG, WREG_CFG, TIMER_CFG: the last slot; equal and different indices; frequency 0 and 65535. -/
theorem witness_construct_commands :
    Running busy ∧ (3 : Byte).toNat < busy.params.numBreg ∧ (3 : Byte).toNat < busy.params.numWreg ∧
    (3 : Byte).toNat < busy.params.numTimer ∧ (2 : Half) ≠ 3 ∧ (65535 : Half) ≠ 0 ∧ TimeInputOk busy ∧
    TimeInputOk ticking :=
  ⟨rfl, by decide, by decide, by decide, by decide, by decide, busy_timeInputOk, ticking_timeInputOk⟩

/-- For every word register statement, WordRoundTrip and ComponentsAndValueAgree among them: both indices inside; `lo`
outside; only `hi` outside; bits 15 and 16; components 0, 1 and 2. -/
theorem witness_wreg_commands :
    (Running busy ∧ (0 : Byte).toNat < busy.params.numWreg ∧ busy.wreg? 0 = some ⟨3, 4, 0xA55A⟩ ∧ (3 : Half) ≠ 4 ∧
      (3 : Half).toNat < busy.params.cap ∧ (4 : Half).toNat < busy.params.cap) ∧
    (outOfRange.wreg? 0 = some ⟨10, 11, 0xABCD⟩ ∧ outOfRange.params.cap ≤ (10 : Half).toNat) ∧
    ((given zeroed [] ⟨3, 0⟩ ⟨9, 10, 0xABCD⟩ ⟨3, 0, 60, 0⟩).wreg? 0 = some ⟨9, 10, 0xABCD⟩ ∧
      (9 : Half).toNat < zeroed.params.cap ∧ zeroed.params.cap ≤ (10 : Half).toNat) ∧
    (15 : Half).toNat < 16 ∧ 16 ≤ (16 : Half).toNat ∧ (1 : Half).toNat < 2 ∧ 2 ≤ (2 : Half).toNat :=
  ⟨⟨rfl, by decide, rfl, by decide, by decide, by decide⟩, ⟨rfl, by decide⟩, ⟨rfl, by decide, by decide⟩, by decide,
    by decide, by decide, by decide⟩

/-- TIMER_UPDATE at a zero count, and out of range; TIMER_VALUE. -/
theorem witness_timer_stops :
    (Running { ticking with mem := [] } ∧ (0 : Byte).toNat < ticking.params.numTimer ∧
      ({ ticking with mem := [] } : State).timer? 0 = some ⟨3, 0, 60, 0⟩ ∧ (3 : Half).toNat < ticking.params.cap ∧
      ({ ticking with mem := [] } : State).byteAt 3 = 0) ∧
    (outOfRange.timer? 0 = some ⟨10, 5, 60, 0⟩ ∧ outOfRange.params.cap ≤ (10 : Half).toNat) :=
  ⟨⟨rfl, by decide, rfl, by decide, rfl⟩, rfl, by decide⟩

/-- TIMER_UPDATE at a nonzero count; the tick condition on both sides of its boundary at 60 Hz. -/
theorem witness_timer_update :
    Running ticking ∧ (0 : Byte).toNat < ticking.params.numTimer ∧ ticking.timer? 0 = some ⟨3, 0, 60, 0⟩ ∧
    (3 : Half).toNat < ticking.params.cap ∧ ticking.byteAt 3 ≠ 0 ∧ TimeInputOk ticking ∧ ticking.tLast = some 0 ∧
    TickDue ⟨3, 0, 60, 0⟩ 16666667 ∧ ¬ TickDue ⟨3, 0, 60, 0⟩ 16666666 :=
  ⟨rfl, by decide, rfl, by decide, by decide, ticking_timeInputOk, rfl, by unfold TickDue; decide,
    by unfold TickDue; decide⟩

theorem witness_one_tick_per_decrement :
    (∃ t, exec (.timerUpdate 0) ticking = .next t) ∧ ticking.timer? 0 = some ⟨3, 0, 60, 0⟩ := ⟨⟨_, rfl⟩, rfl⟩

/-- V-L1-6: 2 in memory, polls at 20 ms and 40 ms. -/
theorem witness_count_of_two :
    Running ticking ∧ (ticking.byteAt 3).toNat = 2 ∧ TimeInputOk ticking ∧ ticking.tLast = some 0 ∧
    ticking.nowIn = 20000000 :: 20000000 :: 40000000 :: 40000000 :: [] ∧ TickDue ⟨3, 0, 60, 0⟩ 20000000 ∧
    TickDue { (⟨3, 0, 60, 0⟩ : Timer) with lastTick := 20000000 } 40000000 :=
  ⟨rfl, rfl, ticking_timeInputOk, rfl, rfl, by unfold TickDue; decide, by unfold TickDue; decide⟩

/-- Two bits of one byte of memory, the last ones of CAP 10, and other indices just past the end. -/
theorem witness_bits_independent :
    Running zeroed ∧ (79 : Half).toNat < zeroed.params.cap * 8 ∧ (78 : Half).toNat < zeroed.params.cap * 8 ∧
    (78 : Half) ≠ 79 ∧ (80 : Half) ≠ 79 ∧ (81 : Half) ≠ 79 := ⟨rfl, by decide, by decide, by decide, by decide, by decide⟩

end Sys2Proof.Tests
end

/-! ## What a command can do, said once

Every command of the block is a row of elementary changes to the state (`Change`) followed by one ending (`Ending`).
`exec_follows` says so for all 28 commands; a frame or an invariant of commands is then shown for each change and each
ending, without running a command again. -/

namespace Sys2Proof.Machine

open Sys2Proof.Safety

/-- The elementary changes command `i` makes to the block, each with what the meaning has checked when it makes it. -/
inductive Change (i : Instr) : State → State → Prop
  /-- a store to a byte that exists -/
  | store {s : State} {a : Nat} (v : Byte) (hi : a ∈ storedAt i s) (ha : a < s.params.cap) :
      Change i s (s.setByte a v)
  /-- BREG_CFG (R130) -/
  | constructBreg {s : State} {slot : Byte} (r : ByteReg) (hi : writtenSlot i = some (.b, slot))
      (hc : isConstruct i = true) (hn : slot.toNat < s.params.numBreg) : Change i s (s.putBreg slot r)
  /-- a pull or an edit of a byte register's cache -/
  | cacheBreg {s : State} {slot : Byte} {r : ByteReg} (v : Byte) (hi : writtenSlot i = some (.b, slot))
      (hn : slot.toNat < s.params.numBreg) (hr : s.breg? slot = some r) :
      Change i s (s.putBreg slot { r with cache := v })
  /-- WREG_CFG (R150) -/
  | constructWreg {s : State} {slot : Byte} (r : WordReg) (hi : writtenSlot i = some (.w, slot))
      (hc : isConstruct i = true) (hn : slot.toNat < s.params.numWreg) (hr : r.lo ≠ r.hi) :
      Change i s (s.putWreg slot r)
  /-- a pull or an edit of a word register's cache -/
  | cacheWreg {s : State} {slot : Byte} {r : WordReg} (v : Half) (hi : writtenSlot i = some (.w, slot))
      (hn : slot.toNat < s.params.numWreg) (hr : s.wreg? slot = some r) :
      Change i s (s.putWreg slot { r with cache := v })
  /-- TIMER_CFG, its baseline the sample just taken (R182) -/
  | constructTimer {s : State} {slot : Byte} (r : Timer) (hi : writtenSlot i = some (.t, slot))
      (hc : isConstruct i = true) (hn : slot.toNat < s.params.numTimer) (hr : r.freq ≠ 0)
      (hl : s.tLast = some r.lastTick) : Change i s (s.putTimer slot r)
  /-- the pull of TIMER_UPDATE -/
  | cacheTimer {s : State} {slot : Byte} {r : Timer} (v : Byte) (hi : writtenSlot i = some (.t, slot))
      (hn : slot.toNat < s.params.numTimer) (hr : s.timer? slot = some r) :
      Change i s (s.putTimer slot { r with cache := v })
  /-- the decrement of TIMER_UPDATE, its new baseline the sample just taken (R183) -/
  | tickTimer {s : State} {slot : Byte} {r : Timer} (v : Byte) {n : Time} (hi : writtenSlot i = some (.t, slot))
      (hn : slot.toNat < s.params.numTimer) (hr : s.timer? slot = some r) (hl : s.tLast = some n) :
      Change i s (s.putTimer slot { r with cache := v, lastTick := n })
  /-- a TICK record (R187) -/
  | emit {s : State} (e : Tick) (hi : i = .timerUpdate e.slot) (hn : e.slot.toNat < s.params.numTimer)
      (hv : e.value ≠ 0) : Change i s (s.emit e)
  /-- a NOW sample, at least every earlier one (R180) -/
  | sample {s : State} (hi : samplesNow i = true) (hm : ∀ m, s.tLast = some m → m ≤ s.nextSample) :
      Change i s s.afterSample

/-- How a command that started in `s` ends, from the state `u` its changes have led to (R81). -/
inductive Ending (s : State) : State → State → Prop
  /-- it completes with an OK response -/
  | ok {u : State} (r : Response) (hst : rspSt r.word = stOk) (hz : rspZero r.word = 0) : Ending s u (u.answer r)
  /-- it raises a fault (R212) -/
  | fault {u : State} (c : Cause) (info : Half) (hf : s.latch.faulted = false) : Ending s u (u.faultedWith c info)
  /-- the block was halted and ignores it (R213) -/
  | halted (hf : s.latch.faulted = true) : Ending s s (s.answer (faultedResponse s.latch))

/-- What is left of command `i`, started in `s` and now in `u`, is changes of `i` and one ending. -/
def Follows (i : Instr) (s u : State) (r : Result) : Prop :=
  ∀ t, r = .next t → ∃ v, Relation.ReflTransGen (Change i) u v ∧ Ending s v t

/-! ### One rule per operation -/

namespace Follows

variable {i : Instr} {s u : State}

theorem ended {t : State} (h : Ending s u t) : Follows i s u (.next t) := by
  rintro _ ⟨⟩
  exact ⟨u, .refl, h⟩

/-- One more change first. -/
theorem change {v : State} {r : Result} (h : Change i u v) (hr : Follows i s v r) : Follows i s u r := fun t ht =>
  have ⟨w, hw, he⟩ := hr t ht
  ⟨w, .head h hw, he⟩

theorem respond (d : Half) : Follows i s u (respond u d) :=
  ended (.ok _ (rspSt_packRsp _ _ _) (rspZero_packRsp _ _ _))

theorem raiseFault (hf : s.latch.faulted = false) (c : Cause) (info : Half) : Follows i s u (raiseFault u c info) :=
  ended (.fault c info hf)

theorem whenRunning {k : Result} (hk : s.latch.faulted = false → Follows i s s k) :
    Follows i s s (whenRunning s k) := by
  intro t h
  rcases whenRunning_next h with ⟨hf, rfl⟩ | ⟨hf, h⟩
  · exact ⟨s, .refl, .halted hf⟩
  · exact hk hf t h

theorem withSlot {n : Nat} {slot : Byte} {k : Result}
    (hk : s.latch.faulted = false → slot.toNat < n → Follows i s s k) : Follows i s s (withSlot s n slot k) := by
  intro t h
  rcases withSlot_next h with ⟨hf, rfl⟩ | ⟨hf, _, rfl⟩ | ⟨hf, hn, h⟩
  · exact ⟨s, .refl, .halted hf⟩
  · exact raiseFault hf _ _ _ rfl
  · exact hk hf hn t h

/-- The common checks of a command on a constructed slot, of any of the three kinds. -/
theorem onSlot {α : Type} {n : Nat} {slot : Byte} {held : Option α} {k : α → Result}
    (hk : ∀ r, s.latch.faulted = false → slot.toNat < n → held = some r → Follows i s s (k r)) :
    Follows i s s (Machine.withSlot s n slot (whenConstructed s slot held k)) := by
  refine withSlot fun hf hn t h => ?_
  rcases whenConstructed_next h with ⟨_, rfl⟩ | ⟨r, hr, h⟩
  · exact raiseFault hf _ _ _ rfl
  · exact hk r hf hn hr t h

theorem memRead (hf : s.latch.faulted = false) {a : Half} {k : Byte → Result}
    (hk : Follows i s u (k (u.byteAt a.toNat))) : Follows i s u (memRead u a k) := by
  intro t h
  rcases memRead_next h with ⟨_, rfl⟩ | ⟨_, h⟩
  · exact raiseFault hf _ _ _ rfl
  · exact hk t h

theorem memWrite (hf : s.latch.faulted = false) {a : Half} {v : Byte} {k : State → Result}
    (hi : a.toNat ∈ storedAt i u) (hk : Follows i s (u.setByte a.toNat v) (k (u.setByte a.toNat v))) :
    Follows i s u (memWrite u a v k) := by
  intro t h
  rcases memWrite_next h with ⟨_, rfl⟩ | ⟨ha, h⟩
  · exact raiseFault hf _ _ _ rfl
  · exact change (.store v hi ha) hk t h

theorem checkBitIndex (hf : s.latch.faulted = false) {b : Nat} {k : Result}
    (hk : b < u.params.cap * 8 → Follows i s u k) : Follows i s u (checkBitIndex u b k) := by
  intro t h
  rcases checkBitIndex_next h with ⟨_, rfl⟩ | ⟨_, rfl⟩ | ⟨hb, h⟩
  · exact raiseFault hf _ _ _ rfl
  · exact raiseFault hf _ _ _ rfl
  · exact hk hb t h

theorem checkRegBit (hf : s.latch.faulted = false) {w : Nat} {j : Half} {k : Result} (hk : Follows i s u k) :
    Follows i s u (checkRegBit u w j k) := by
  intro t h
  rcases checkRegBit_next h with ⟨_, rfl⟩ | ⟨_, h⟩
  · exact raiseFault hf _ _ _ rfl
  · exact hk t h

theorem checkComponent (hf : s.latch.faulted = false) {j : Half} {k : Result} (hk : Follows i s u k) :
    Follows i s u (checkComponent u j k) := by
  intro t h
  rcases checkComponent_next h with ⟨_, rfl⟩ | ⟨_, h⟩
  · exact raiseFault hf _ _ _ rfl
  · exact hk t h

theorem sampleNow {k : Time → State → Result} (hi : samplesNow i = true)
    (hk : Follows i s u.afterSample (k u.nextSample u.afterSample)) : Follows i s u (sampleNow u k) := by
  intro t h
  obtain ⟨hm, h⟩ := sampleNow_next h
  exact change (.sample hi hm) hk t h

end Follows

/-! ### The commands with more than one change -/

theorem execWregPush_follows (slot : Byte) (s : State) : Follows (.wregPush slot) s s (execWregPush slot s) := by
  refine Follows.onSlot fun r hf _ hr => ?_
  exact .memWrite hf (by simp [storedAt, hr]) (.memWrite hf (by simp [storedAt, hr]) (.respond _))

theorem execTimerCfg_follows (slot : Byte) (index freq : Half) (count : Byte) (s : State) :
    Follows (.timerCfg slot index freq count) s s (execTimerCfg slot index freq count s) := by
  refine Follows.withSlot fun hf hn => ?_
  split_ifs with h0
  · exact .raiseFault hf _ _
  · exact .sampleNow rfl (.change (.constructTimer _ rfl rfl (by simpa using hn) h0 (by simp)) (.respond _))

/-- Step 4 of TIMER_UPDATE, from a state that holds the timer with the pulled count (R183). -/
theorem timerTick_follows {slot : Byte} {s u : State} {r : Timer} {v : Byte} (e : Time)
    (hf : s.latch.faulted = false) (hn : slot.toNat < u.params.numTimer)
    (hr : u.timer? slot = some { r with cache := v }) (hv : v ≠ 0) :
    Follows (.timerUpdate slot) s u (timerTick slot r v e u) := by
  refine .change (.emit _ rfl hn hv) (.sampleNow rfl ?_)
  refine .change (.tickTimer (v - 1) rfl ?_ ((State.timerAt_afterSample _ _).trans hr) (State.afterSample_tLast _)) ?_
  · simpa using hn
  · exact .memWrite hf (by simp [storedAt]) (.respond _)

theorem execTimerUpdate_follows (slot : Byte) (s : State) :
    Follows (.timerUpdate slot) s s (execTimerUpdate slot s) := by
  refine Follows.onSlot fun r hf hn hr => .memRead hf ?_
  have hpull (v : Byte) : Change (.timerUpdate slot) s (s.putTimer slot { r with cache := v }) :=
    .cacheTimer v rfl hn hr
  split_ifs with hv
  · exact .change (hpull _) (.respond _)
  · refine .change (hpull _) (.sampleNow rfl ?_)
    split_ifs
    · exact timerTick_follows _ hf (by simpa using hn) (by simp) hv
    · exact .respond _

/-- Every command is changes of its own and one ending. -/
theorem exec_follows (i : Instr) (s : State) : Follows i s s (exec i s) := by
  cases i with
  | status => exact .ended (.ok _ (rspSt_packRsp _ _ _) (rspZero_packRsp _ _ _))
  | memGetByte a => exact .whenRunning fun hf => .memRead hf (.respond _)
  | memSetByte a v => exact .whenRunning fun hf => .memWrite hf (by simp [storedAt]) (.respond _)
  | memGetBit b => exact .whenRunning fun hf => .checkBitIndex hf fun _ => .respond _
  | memSetBit b on =>
    refine .whenRunning fun hf => .checkBitIndex hf fun hb => ?_
    exact .change (.store _ (by simp [storedAt]) (byte_of_bit_lt hb)) (.respond _)
  | memByteAtStart => exact .whenRunning fun hf => .memRead hf (.respond _)
  | memBitAtStart => exact .whenRunning fun hf => .checkBitIndex hf fun _ => .respond _
  | memStartOffset => exact .whenRunning fun _ => .respond _
  | memDump => exact .whenRunning fun _ => .ended (.ok _ (rspSt_packRsp _ _ _) (rspZero_packRsp _ _ _))
  | bregCfg slot a v => exact .withSlot fun _ hn => .change (.constructBreg _ rfl rfl hn) (.respond _)
  | bregPull slot =>
    exact .onSlot fun _ hf hn hr => .memRead hf (.change (.cacheBreg _ rfl hn hr) (.respond _))
  | bregPush slot => exact .onSlot fun _ hf _ hr => .memWrite hf (by simp [storedAt, hr]) (.respond _)
  | bregGetBit slot j => exact .onSlot fun _ hf _ _ => .checkRegBit hf (.respond _)
  | bregSetBit slot j on =>
    exact .onSlot fun _ hf hn hr => .checkRegBit hf (.change (.cacheBreg _ rfl hn hr) (.respond _))
  | bregValue slot => exact .onSlot fun _ _ _ _ => .respond _
  | bregSetValue slot v => exact .onSlot fun _ _ hn hr => .change (.cacheBreg _ rfl hn hr) (.respond _)
  | wregCfg slot lo hi v =>
    refine .withSlot fun hf hn => ?_
    split_ifs with he
    · exact .raiseFault hf _ _
    · exact .change (.constructWreg _ rfl rfl hn he) (.respond _)
  | wregPull slot =>
    exact .onSlot fun _ hf hn hr => .memRead hf (.memRead hf (.change (.cacheWreg _ rfl hn hr) (.respond _)))
  | wregPush slot => exact execWregPush_follows slot s
  | wregGetBit slot j => exact .onSlot fun _ hf _ _ => .checkRegBit hf (.respond _)
  | wregSetBit slot j on =>
    exact .onSlot fun _ hf hn hr => .checkRegBit hf (.change (.cacheWreg _ rfl hn hr) (.respond _))
  | wregGetComp slot j => exact .onSlot fun _ hf _ _ => .checkComponent hf (.respond _)
  | wregSetComp slot j v =>
    exact .onSlot fun _ hf hn hr => .checkComponent hf (.change (.cacheWreg _ rfl hn hr) (.respond _))
  | wregValue slot => exact .onSlot fun _ _ _ _ => .respond _
  | wregSetValue slot v => exact .onSlot fun _ _ hn hr => .change (.cacheWreg _ rfl hn hr) (.respond _)
  | timerCfg slot a f c => exact execTimerCfg_follows slot a f c s
  | timerUpdate slot => exact execTimerUpdate_follows slot s
  | timerValue slot => exact .onSlot fun _ _ _ _ => .respond _

/-- If a command answers `next t`, its changes lead to some `u` and its ending from there to `t`. -/
theorem exec_next {i : Instr} {s t : State} (h : exec i s = .next t) :
    ∃ u, Relation.ReflTransGen (Change i) s u ∧ Ending s u t := exec_follows i s t h

/-- A predicate that holds at the start, survives every change of `i` and every ending, holds where `i` ends. -/
theorem exec_preserves {i : Instr} {s t : State} {P : State → Prop} (h : exec i s = .next t) (h0 : P s)
    (hc : ∀ u v, Change i u v → P u → P v) (he : ∀ u v, Ending s u v → P u → P v) : P t := by
  obtain ⟨u, hu, ht⟩ := exec_next h
  have hPu : P u := by
    clear ht
    induction hu with
    | refl => exact h0
    | tail _ hvw ih => exact hc _ _ hvw ih
  exact he u t ht hPu

end Sys2Proof.Machine

/-! ## The invariant -/

namespace Sys2Proof.Machine

open Sys2Proof.Safety

/-- `Memory.write` at an index that exists keeps memory canonical and inside CAP. -/
theorem memoryOk_setByte {s : State} {a : Nat} (v : Byte) (h : MemoryOk s) (ha : a < s.params.cap) :
    MemoryOk (s.setByte a v) := by
  obtain ⟨hwf, hcap⟩ := h
  refine ⟨Memory.wf_write a v hwf, fun c hc => ?_⟩
  rcases Memory.mem_write hc with hca | hc
  · exact hca ▸ ha
  · exact hcap c hc

/-- What holds of every entry of a table and of the entry put, holds of every entry after the put. -/
theorem Table.forall_put {α : Type} {t : Table α} {k : Nat} {x : α} {Q : Nat × α → Prop} (h : ∀ e ∈ t, Q e)
    (hx : Q (k, x)) : ∀ e ∈ Table.put t k x, Q e := by
  intro e he
  rcases Table.mem_put he with rfl | he
  · exact hx
  · exact h e he

/-- A table that is canonical below a count stays so when a slot below the count is put. -/
theorem Table.canonical_put {α : Type} {t : Table α} {n k : Nat} (x : α)
    (h : Table.Sorted t ∧ ∀ e ∈ t, e.1 < n) (hk : k < n) :
    Table.Sorted (Table.put t k x) ∧ ∀ e ∈ Table.put t k x, e.1 < n :=
  ⟨Table.sorted_put k x h.1, Table.forall_put h.2 hk⟩

theorem inv_putBreg {s : State} {slot : Byte} (r : ByteReg) (h : Inv s) (hn : slot.toNat < s.params.numBreg) :
    Inv (s.putBreg slot r) := by
  obtain ⟨hb, hw, ht⟩ := h.slots
  exact { h with slots := ⟨Table.canonical_put r hb hn, hw, ht⟩ }

theorem inv_putWreg {s : State} {slot : Byte} {r : WordReg} (h : Inv s) (hn : slot.toNat < s.params.numWreg)
    (hr : r.lo ≠ r.hi) : Inv (s.putWreg slot r) := by
  obtain ⟨hb, hw, ht⟩ := h.slots
  exact { h with slots := ⟨hb, Table.canonical_put r hw hn, ht⟩, wregs := Table.forall_put h.wregs hr }

theorem inv_putTimer {s : State} {slot : Byte} {r : Timer} (h : Inv s) (hn : slot.toNat < s.params.numTimer)
    (hr : r.freq ≠ 0 ∧ ∃ m, s.tLast = some m ∧ r.lastTick ≤ m) : Inv (s.putTimer slot r) := by
  obtain ⟨hb, hw, ht⟩ := h.slots
  exact { h with slots := ⟨hb, hw, Table.canonical_put r ht hn⟩, timers := Table.forall_put h.timers hr }

/-- `afterSample` changes T_LAST and the time input only. -/
theorem State.afterSample_eq (s : State) :
    s.afterSample = { s with tLast := some s.nextSample, nowIn := s.nowIn.tail, draws := s.afterSample.draws } := by
  unfold State.afterSample State.nextSample
  split
  · next hn => simp [hn]
  · next hn => simp [hn]

/-- A baseline that was an earlier sample still is one after a sample that did not go back. -/
theorem inv_afterSample {s : State} (h : Inv s) (hm : ∀ m, s.tLast = some m → m ≤ s.nextSample) :
    Inv s.afterSample := by
  rw [State.afterSample_eq]
  refine { h with timers := fun e he => ?_ }
  obtain ⟨hfreq, m, hlast, hle⟩ := h.timers e he
  exact ⟨hfreq, s.nextSample, rfl, BitVec.le_trans hle (hm m hlast)⟩

theorem inv_emit {s : State} {e : Tick} (h : Inv s) (hn : e.slot.toNat < s.params.numTimer) (hv : e.value ≠ 0) :
    Inv (s.emit e) := by
  refine { h with events := fun e' he' => ?_ }
  rcases List.mem_append.1 he' with he' | he'
  · exact h.events e' he'
  · obtain rfl := List.mem_singleton.1 he'
    exact ⟨hn, hv⟩

/-- Every elementary change of a command keeps the invariant. -/
theorem inv_change {i : Instr} {u v : State} (hc : Change i u v) (h : Inv u) : Inv v := by
  cases hc with
  | store v _ ha => exact { h with mem := memoryOk_setByte v h.mem ha }
  | constructBreg r _ _ hn => exact inv_putBreg r h hn
  | cacheBreg v _ hn _ => exact inv_putBreg _ h hn
  | constructWreg r _ _ hn hr => exact inv_putWreg h hn hr
  | cacheWreg v _ hn hr => exact inv_putWreg h hn (h.wregs _ (Table.mem_of_find hr))
  | constructTimer r _ _ hn hr hl => exact inv_putTimer h hn ⟨hr, _, hl, BitVec.le_refl _⟩
  | cacheTimer v _ hn hr => exact inv_putTimer h hn (h.timers _ (Table.mem_of_find hr))
  | tickTimer v _ hn hr hl =>
    exact inv_putTimer h hn ⟨(h.timers _ (Table.mem_of_find hr)).1, _, hl, BitVec.le_refl _⟩
  | emit e _ hn hv => exact inv_emit h hn hv
  | sample _ hm => exact inv_afterSample h hm

/-- What `ResponsesOk` asks of each response (R80, R81, R83). -/
def ResponseForm (r : Response) : Prop :=
  rspSt r.word ∈ [0#4, 1#4, 2#4] ∧ rspZero r.word = 0 ∧ (r.dump ≠ [] → rspSt r.word = 0)

theorem inv_answer {s : State} {r : Response} (h : Inv s) (hr : ResponseForm r) : Inv (s.answer r) := by
  refine { h with responses := fun r' hr' => ?_ }
  rcases List.mem_append.1 hr' with hr' | hr'
  · exact h.responses r' hr'
  · obtain rfl := List.mem_singleton.1 hr'
    exact hr

theorem responseForm_faulted (l : FaultLatch) : ResponseForm (faultedResponse l) := by
  simp [ResponseForm, faultedResponse, stFaulted]

theorem responseForm_fault (cause : Byte) (info : Half) : ResponseForm (faultResponse cause info) := by
  simp [ResponseForm, faultResponse, stFault]

/-- A raised fault puts one of the ten causes of R211 in the latch. -/
theorem latchOk_faultedWith (s : State) (c : Cause) (info : Half) : LatchOk (s.faultedWith c info) := by
  cases c <;> simp [LatchOk, Cause.code]

theorem inv_faultedWith {s : State} (h : Inv s) (c : Cause) (info : Half) : Inv (s.faultedWith c info) :=
  inv_answer (s := s.setLatch _) { h with latch := latchOk_faultedWith s c info } (responseForm_fault _ _)

/-- Every ending of a command keeps the invariant. -/
theorem inv_ending {s u v : State} (he : Ending s u v) (h : Inv u) : Inv v := by
  cases he with
  | ok r hst hz => exact inv_answer h ⟨by simp [hst, stOk], hz, fun _ => hst⟩
  | fault c info _ => exact inv_faultedWith h c info
  | halted _ => exact inv_answer h (responseForm_faulted _)

/-- Every command keeps the invariant. -/
theorem inv_exec {i : Instr} {s t : State} (h : Inv s) (he : exec i s = .next t) : Inv t :=
  exec_preserves he h (fun _ _ => inv_change) (fun _ _ => inv_ending)

/-! ### Reset -/

/-- The initial contents fill memory exactly when an INIT that is given does (R7, D29). -/
theorem length_initialBytes_iff (c : Configuration) :
    (initialBytes c).length = c.params.cap ↔ ∀ bytes, c.init = some bytes → bytes.length = c.params.cap := by
  unfold initialBytes
  cases c.init <;> simp

/-- The model's check of a configuration is R7. -/
theorem legalConfiguration_iff (c : Configuration) : legalConfiguration c = true ↔ Legal c := by
  simp [legalConfiguration, legalCount, Legal, length_initialBytes_iff, and_assoc]

/-- A reset to a legal configuration gives the invariant; of the state before, only the responses count (R39). -/
theorem inv_resetTo {s : State} {c : Configuration} (hc : Legal c) (hr : ResponsesOk s) : Inv (s.resetTo c) where
  params := by
    obtain ⟨hcap, hmax, hstart, _, hcounts⟩ := hc
    exact ⟨hcap, hmax, hstart, hcounts⟩
  mem := by
    obtain ⟨_, _, _, hinit, _⟩ := hc
    refine ⟨Memory.wf_ofBytes _ _, fun e he => ?_⟩
    have hlt := (Memory.mem_ofBytes he).2.1
    rwa [Nat.zero_add, (length_initialBytes_iff c).2 hinit] at hlt
  slots := by simp [SlotsOk, Table.Sorted]
  wregs := by simp [WregsOk]
  timers := by simp [TimersOk]
  latch := by simp [LatchOk]
  events := by simp [EventsOk]
  responses := hr

theorem inv_takeReset {s t : State} {c : Configuration} (h : Inv s) (ht : takeReset s c = .next t) : Inv t := by
  unfold takeReset at ht
  split_ifs at ht with hc
  cases ht
  exact inv_resetTo ((legalConfiguration_iff c).1 hc) h.responses

/-! ### A step -/

theorem execIllegal_next {op : Byte} {s t : State} (h : execIllegal op s = .next t) :
    (s.latch.faulted = true ∧ s.answer (faultedResponse s.latch) = t) ∨
    (s.latch.faulted = false ∧ s.faultedWith .illegalCommand (zextByte op) = t) :=
  (whenRunning_next h).imp_right fun ⟨hf, h⟩ => ⟨hf, raiseFault_next.1 h⟩

theorem inv_runCommand {s t : State} {w : Command} (h : Inv s) (ht : runCommand w s = .next t) : Inv t := by
  unfold runCommand at ht
  split at ht
  · exact inv_exec h ht
  · rcases execIllegal_next ht with ⟨_, rfl⟩ | ⟨_, rfl⟩
    · exact inv_answer h (responseForm_faulted _)
    · exact inv_faultedWith h _ _

/-- A step is nothing, the command on the port, or a reset (R13). -/
theorem step_next {s t : State} (h : step s = .next t) :
    (s.inputs = [] ∧ s = t) ∨
    (∃ w rest, s.inputs = .command w :: rest ∧ runCommand w s.afterInput = .next t) ∨
    (∃ c rest, s.inputs = .reset c :: rest ∧ takeReset s.afterInput c = .next t) := by
  unfold step takeInput at h
  split at h
  · next hi => exact .inl ⟨hi, by simpa using h⟩
  · next w rest hi => exact .inr (.inl ⟨w, rest, hi, h⟩)
  · next c rest hi => exact .inr (.inr ⟨c, rest, hi, h⟩)

/-- The waiting inputs are no part of the invariant. -/
theorem inv_afterInput {s : State} (h : Inv s) : Inv s.afterInput := { h with }

/-- Settles O15: each elementary change and each ending of a command keeps the invariant, and a legal reset gives it. -/
theorem everyStepKeepsInv : Obligations.EveryStepKeepsInv := by
  intro s t h ht
  rcases step_next ht with ⟨_, rfl⟩ | ⟨w, _, _, ht⟩ | ⟨c, _, _, ht⟩
  · exact h
  · exact inv_runCommand (inv_afterInput h) ht
  · exact inv_takeReset (inv_afterInput h) ht

/-- Settles O14: a reset to a legal configuration gives the invariant, and `State.reset` has given no response. -/
theorem invHoldsAtEveryReset : Obligations.InvHoldsAtEveryReset := fun _ hc =>
  inv_resetTo hc fun _ hr => absurd hr List.not_mem_nil

/-! ## The frame of the rest of the state -/

/-- What `t`, reached by command `i` from `s`, must have kept of `s` outside memory, slots, latch and responses. -/
structure RestKept (i : Instr) (s t : State) : Prop where
  params : t.params = s.params
  start : t.start = s.start
  inputs : t.inputs = s.inputs
  events : (∀ slot, i ≠ .timerUpdate slot) → t.events = s.events
  time : samplesNow i = false → t.tLast = s.tLast ∧ t.nowIn = s.nowIn ∧ t.draws = s.draws

/-- Only a TICK touches the events and only a sample the time; both are changes of the commands named. -/
theorem restKept_change {i : Instr} {s u v : State} (hc : Change i u v) (h : RestKept i s u) : RestKept i s v := by
  cases hc with
  | store | constructBreg | cacheBreg | constructWreg | cacheWreg | constructTimer | cacheTimer | tickTimer =>
    exact { h with }
  | emit e hi _ _ => exact { h with events := fun hne => absurd hi (hne _) }
  | sample hi _ =>
    rw [State.afterSample_eq]
    exact { h with time := fun hno => absurd (hi.symm.trans hno) Bool.noConfusion }

theorem restKept_ending {i : Instr} {s₀ s u v : State} (he : Ending s u v) (h : RestKept i s₀ u) :
    RestKept i s₀ v := by
  cases he with
  | ok | fault | halted => exact { h with }

/-- Settles O22: no elementary change but a TICK and a sample touches the rest of the state, and no ending does. -/
theorem frameOfTheRestOfTheState : Obligations.FrameOfTheRestOfTheState := by
  intro i s t h
  have hkept : RestKept i s t :=
    exec_preserves h ⟨rfl, rfl, rfl, fun _ => rfl, fun _ => ⟨rfl, rfl, rfl⟩⟩
      (fun _ _ => restKept_change) (fun _ _ => restKept_ending)
  exact ⟨hkept.params, hkept.start, hkept.inputs, hkept.events, hkept.time⟩

/-! ## A step runs the decoded command -/

theorem runCommand_of_decode {w : Command} {i : Instr} (s : State) (h : decode w = .ok i) :
    runCommand w s = exec i s := by
  simp [runCommand, h]

/-- A word on the command port is the host's next input. -/
theorem commandOnPort_eq_some {s : State} {w : Command} (h : s.commandOnPort = some w) :
    ∃ rest, s.inputs = .command w :: rest := by
  unfold State.commandOnPort at h
  split at h
  · next w' rest hi => exact ⟨rest, by rw [hi, Option.some.inj h]⟩
  · cases h

theorem step_of_command {s : State} {w : Command} {rest : List HostInput} (h : s.inputs = .command w :: rest) :
    step s = runCommand w s.afterInput := by
  simp [step, takeInput, h]

/-- Settles O9: a step runs the word on the port, and running a word that decodes to `i` is `exec i`. -/
theorem stepRunsDecodedCommand : Obligations.StepRunsDecodedCommand := by
  refine ⟨fun s w i hport hdec => ?_, fun s nbits w i hdec => ?_⟩
  · obtain ⟨rest, hin⟩ := commandOnPort_eq_some hport
    rw [step_of_command hin, runCommand_of_decode _ hdec]
    rfl
  · have hok : decode (BitVec.ofNat 64 (w % 2 ^ nbits)) = .ok i := by
      unfold decodeTableWord at hdec
      cases hd : decode (BitVec.ofNat 64 (w % 2 ^ nbits)) with
      | error e => simp [hd, Except.toOption] at hdec
      | ok j => simpa [hd, Except.toOption] using hdec
    rw [State.withFetchWord, step_of_command (State.withCommand_inputs s _), runCommand_of_decode _ hok,
      State.afterInput_withCommand]

end Sys2Proof.Machine

/-! ## The invariant at the model's reset state -/

namespace Sys2Proof.Machine

open Sys2Proof.Safety

/-- `State.reset` is one of the reset states of R39, the one at the configuration of log entry 1. -/
theorem reset_eq_stateAt : State.reset = stateAt Config.resetConfiguration := rfl

theorem resetConfiguration_legal : Legal Config.resetConfiguration :=
  (legalConfiguration_iff _).1 (by decide)

/-- Settles O13: `State.reset` is the reset state of a legal configuration, and each of these has the invariant. -/
theorem invHoldsAtReset : Obligations.InvHoldsAtReset := by
  unfold Obligations.InvHoldsAtReset
  rw [reset_eq_stateAt]
  exact invHoldsAtEveryReset _ resetConfiguration_legal

end Sys2Proof.Machine

/-! ## The clock -/

namespace Sys2Proof.Machine

open Sys2Proof.Safety

/-- The only change that touches T_LAST is a sample, and it is at least T_LAST (R180). -/
theorem tLast_change {i : Instr} {u v : State} {m : Time} (hc : Change i u v)
    (h : ∃ m', u.tLast = some m' ∧ m ≤ m') : ∃ m', v.tLast = some m' ∧ m ≤ m' := by
  cases hc with
  | store | constructBreg | cacheBreg | constructWreg | cacheWreg | constructTimer | cacheTimer | tickTimer | emit =>
    exact h
  | sample _ hfloor =>
    obtain ⟨m', hlast, hle⟩ := h
    exact ⟨u.nextSample, State.afterSample_tLast u, BitVec.le_trans hle (hfloor m' hlast)⟩

/-- No ending of a command touches T_LAST. -/
theorem tLast_ending {s u v : State} (he : Ending s u v) : v.tLast = u.tLast := by
  cases he <;> rfl

/-- A sample that is at least every earlier one is a sample in the sense of the claims. -/
theorem sampled_of_floor {s : State} (hm : ∀ m, s.tLast = some m → m ≤ s.nextSample) :
    Sampled s s.nextSample s.afterSample := by
  refine ⟨hm, ?_⟩
  unfold State.nextSample State.afterSample
  split
  · next hn => exact .inr ⟨hn, rfl⟩
  · next hn => exact .inl ⟨_, hn, rfl⟩

/-- Settles O23: every change keeps T_LAST or raises it to a sample, and `sampleNow` goes on only with a sample that is
at least T_LAST. -/
theorem clockNeverGoesBack : Obligations.ClockNeverGoesBack := by
  refine ⟨fun i s t m h hm => ?_, fun s t k h => ?_⟩
  · exact exec_preserves (P := fun u => ∃ m', u.tLast = some m' ∧ m ≤ m') h ⟨m, hm, BitVec.le_refl m⟩
      (fun _ _ => tLast_change) (fun _ _ he hu => tLast_ending he ▸ hu)
  · obtain ⟨hfloor, hk⟩ := sampleNow_next h
    exact ⟨_, _, sampled_of_floor hfloor, hk⟩

end Sys2Proof.Machine

/-! ## The frame of the slots -/

namespace Sys2Proof.Machine

open Sys2Proof.Safety

/-- Between `s` and `t` command `i` has touched no slot but the one it may write. -/
structure SlotsKept (i : Instr) (s t : State) : Prop where
  breg : ∀ slot, writtenSlot i ≠ some (.b, slot) → t.breg? slot = s.breg? slot
  wreg : ∀ slot, writtenSlot i ≠ some (.w, slot) → t.wreg? slot = s.wreg? slot
  timer : ∀ slot, writtenSlot i ≠ some (.t, slot) → t.timer? slot = s.timer? slot

section
variable {i : Instr} {s t u v : State} {slot : Byte}

theorem SlotsKept.trans (h₁ : SlotsKept i s t) (h₂ : SlotsKept i t u) : SlotsKept i s u where
  breg slot hi := (h₂.breg slot hi).trans (h₁.breg slot hi)
  wreg slot hi := (h₂.wreg slot hi).trans (h₁.wreg slot hi)
  timer slot hi := (h₂.timer slot hi).trans (h₁.timer slot hi)

theorem slotsKept_of_eq (hb : t.bregs = s.bregs) (hw : t.wregs = s.wregs) (ht : t.timers = s.timers) :
    SlotsKept i s t where
  breg slot _ := by simp only [State.breg?, hb]
  wreg slot _ := by simp only [State.wreg?, hw]
  timer slot _ := by simp only [State.timer?, ht]

theorem slotsKept_putBreg (r : ByteReg) (hi : writtenSlot i = some (.b, slot)) :
    SlotsKept i s (s.putBreg slot r) where
  breg _ hne := State.breg_putBreg_ne _ _ fun e => hne (e ▸ hi)
  wreg _ _ := rfl
  timer _ _ := rfl

theorem slotsKept_putWreg (r : WordReg) (hi : writtenSlot i = some (.w, slot)) :
    SlotsKept i s (s.putWreg slot r) where
  breg _ _ := rfl
  wreg _ hne := State.wreg_putWreg_ne _ _ fun e => hne (e ▸ hi)
  timer _ _ := rfl

theorem slotsKept_putTimer (r : Timer) (hi : writtenSlot i = some (.t, slot)) :
    SlotsKept i s (s.putTimer slot r) where
  breg _ _ := rfl
  wreg _ _ := rfl
  timer _ hne := State.timer_putTimer_ne _ _ fun e => hne (e ▸ hi)

/-- A change writes `writtenSlot i`, or no slot at all. -/
theorem slotsKept_change (hc : Change i u v) : SlotsKept i u v := by
  cases hc with
  | store | emit => exact slotsKept_of_eq rfl rfl rfl
  | sample => exact slotsKept_of_eq (by simp) (by simp) (by simp)
  | constructBreg r hi => exact slotsKept_putBreg r hi
  | cacheBreg _ hi => exact slotsKept_putBreg _ hi
  | constructWreg r hi => exact slotsKept_putWreg r hi
  | cacheWreg _ hi => exact slotsKept_putWreg _ hi
  | constructTimer r hi => exact slotsKept_putTimer r hi
  | cacheTimer _ hi => exact slotsKept_putTimer _ hi
  | tickTimer _ hi => exact slotsKept_putTimer _ hi

/-- No ending of a command writes a slot. -/
theorem slotsKept_ending (he : Ending s u v) : SlotsKept i u v := by
  cases he <;> exact slotsKept_of_eq rfl rfl rfl

end

/-- Settles O20: each elementary change writes the command's own slot or none, and no ending writes one. -/
theorem slotFrameOfEveryCommand : Obligations.SlotFrameOfEveryCommand := by
  intro i s t slot h
  have hkept : SlotsKept i s t :=
    exec_preserves h (slotsKept_of_eq rfl rfl rfl) (fun _ _ hc hu => hu.trans (slotsKept_change hc))
      (fun _ _ he hu => hu.trans (slotsKept_ending he))
  exact ⟨hkept.breg slot, hkept.wreg slot, hkept.timer slot⟩

end Sys2Proof.Machine

/-! ## The bindings of the slots -/

namespace Sys2Proof.Machine

open Sys2Proof.Safety

/-- The same slots are constructed in `t` as in `s`, with the same bound indices and frequencies (R24, R27, R29). -/
structure BindingsKept (s t : State) : Prop where
  breg : ∀ slot, (t.breg? slot).map ByteReg.idx = (s.breg? slot).map ByteReg.idx
  wreg : ∀ slot, (t.wreg? slot).map (fun r => (r.lo, r.hi)) = (s.wreg? slot).map fun r => (r.lo, r.hi)
  timer : ∀ slot, (t.timer? slot).map (fun r => (r.idx, r.freq)) = (s.timer? slot).map fun r => (r.idx, r.freq)

/-- Replacing an entry by one that agrees with it under `f` leaves every entry as it was under `f`. -/
theorem Table.map_find_put {α β : Type} {f : α → β} {t : Table α} {k : Nat} {x y : α}
    (hx : Table.find? t k = some x) (hf : f y = f x) (j : Nat) :
    (Table.find? (Table.put t k y) j).map f = (Table.find? t j).map f := by
  by_cases hj : j = k
  · simp [hj, hx, hf]
  · rw [Table.find_put_ne t y hj]

section
variable {i : Instr} {s t u v : State}

theorem BindingsKept.trans (h₁ : BindingsKept s t) (h₂ : BindingsKept t u) : BindingsKept s u where
  breg slot := (h₂.breg slot).trans (h₁.breg slot)
  wreg slot := (h₂.wreg slot).trans (h₁.wreg slot)
  timer slot := (h₂.timer slot).trans (h₁.timer slot)

theorem bindingsKept_of_eq (hb : t.bregs = s.bregs) (hw : t.wregs = s.wregs) (ht : t.timers = s.timers) :
    BindingsKept s t where
  breg slot := by simp only [State.breg?, hb]
  wreg slot := by simp only [State.wreg?, hw]
  timer slot := by simp only [State.timer?, ht]

theorem bindingsKept_putBreg {slot : Byte} {r r' : ByteReg} (hr : s.breg? slot = some r) (hidx : r'.idx = r.idx) :
    BindingsKept s (s.putBreg slot r') where
  breg other := Table.map_find_put hr hidx other.toNat
  wreg _ := rfl
  timer _ := rfl

theorem bindingsKept_putWreg {slot : Byte} {r r' : WordReg} (hr : s.wreg? slot = some r) (hlo : r'.lo = r.lo)
    (hhi : r'.hi = r.hi) : BindingsKept s (s.putWreg slot r') where
  breg _ := rfl
  wreg other := Table.map_find_put hr (by rw [hlo, hhi]) other.toNat
  timer _ := rfl

theorem bindingsKept_putTimer {slot : Byte} {r r' : Timer} (hr : s.timer? slot = some r) (hidx : r'.idx = r.idx)
    (hfreq : r'.freq = r.freq) : BindingsKept s (s.putTimer slot r') where
  breg _ := rfl
  wreg _ := rfl
  timer other := Table.map_find_put hr (by rw [hidx, hfreq]) other.toNat

/-- A change of a command that constructs nothing edits caches and baselines only. -/
theorem bindingsKept_change (hi : isConstruct i = false) (hc : Change i u v) : BindingsKept u v := by
  cases hc with
  | store | emit => exact bindingsKept_of_eq rfl rfl rfl
  | sample => exact bindingsKept_of_eq (by simp) (by simp) (by simp)
  | constructBreg _ _ hcfg | constructWreg _ _ hcfg | constructTimer _ _ hcfg =>
    exact absurd (hi.symm.trans hcfg) Bool.noConfusion
  | cacheBreg _ _ _ hr => exact bindingsKept_putBreg hr rfl
  | cacheWreg _ _ _ hr => exact bindingsKept_putWreg hr rfl rfl
  | cacheTimer _ _ _ hr => exact bindingsKept_putTimer hr rfl rfl
  | tickTimer _ _ _ hr => exact bindingsKept_putTimer hr rfl rfl

/-- No ending of a command changes a binding. -/
theorem bindingsKept_ending (he : Ending s u v) : BindingsKept u v := by
  cases he <;> exact bindingsKept_of_eq rfl rfl rfl

/-- Every command but the three CFG commands keeps the bindings. -/
theorem bindingsKept_exec (hi : isConstruct i = false) (h : exec i s = .next t) : BindingsKept s t :=
  exec_preserves h (bindingsKept_of_eq rfl rfl rfl) (fun _ _ hc hu => hu.trans (bindingsKept_change hi hc))
    (fun _ _ he hu => hu.trans (bindingsKept_ending he))

end

/-- Settles O21: a command that constructs nothing keeps the bindings of every slot, so an entry stays an entry with
the same indices and frequency, and a missing entry stays missing. -/
theorem bindingsWrittenOnlyByConstruct : Obligations.BindingsWrittenOnlyByConstruct := by
  intro i s t slot h hi
  have hkept := bindingsKept_exec hi h
  have hb := hkept.breg slot
  have hw := hkept.wreg slot
  have ht := hkept.timer slot
  exact ⟨fun r hr => by simpa [hr] using hb, fun r hr => by simpa [hr] using hw, fun r hr => by simpa [hr] using ht,
    fun hr => by simpa [hr] using hb, fun hr => by simpa [hr] using hw, fun hr => by simpa [hr] using ht⟩

end Sys2Proof.Machine

/-! ## The frame of memory -/

namespace Sys2Proof.Machine

open Sys2Proof.Safety

section
variable {i : Instr} {s t u v : State} {a : Nat}

/-- The CFG commands store nothing (R130, R150, R182). -/
theorem storedAt_of_isConstruct (hi : isConstruct i = true) (s : State) : storedAt i s = [] := by
  cases i with
  | bregCfg | wregCfg | timerCfg => rfl
  | _ => cases hi

/-- A list computed from what `f` keeps of an entry is the same for entries that agree under `f`. -/
theorem getD_map_comp_congr {α β : Type} {f : α → β} {o o' : Option α} (g : β → List Nat) (h : o'.map f = o.map f) :
    (o'.map (g ∘ f)).getD [] = (o.map (g ∘ f)).getD [] := by
  rw [← Option.map_map, h, Option.map_map]

/-- The stored bytes of a command depend on the bound indices alone. -/
theorem storedAt_of_bindingsKept (h : BindingsKept s t) : storedAt i t = storedAt i s := by
  cases i with
  | bregPush slot => exact getD_map_comp_congr (fun idx => [idx.toNat]) (h.breg slot)
  | wregPush slot => exact getD_map_comp_congr (fun b => [b.1.toNat, b.2.toNat]) (h.wreg slot)
  | timerUpdate slot => exact getD_map_comp_congr (fun b => [b.1.toNat]) (h.timer slot)
  | _ => rfl

/-- While a command runs, the bytes it may store to stay the same. -/
theorem storedAt_change (hc : Change i u v) : storedAt i v = storedAt i u := by
  cases hi : isConstruct i with
  | true => rw [storedAt_of_isConstruct hi, storedAt_of_isConstruct hi]
  | false => exact storedAt_of_bindingsKept (bindingsKept_change hi hc)

/-- The only change that touches memory is a store to one of the command's stored bytes. -/
theorem byteAt_change (hc : Change i u v) (ha : a ∉ storedAt i u) : v.byteAt a = u.byteAt a := by
  cases hc with
  | store _ hi _ => exact State.byteAt_setByte_ne u _ fun e => ha (e ▸ hi)
  | constructBreg | cacheBreg | constructWreg | cacheWreg | constructTimer | cacheTimer | tickTimer | emit => rfl
  | sample => exact State.byteAt_afterSample u a

/-- No ending of a command touches memory. -/
theorem byteAt_ending (he : Ending s u v) (a : Nat) : v.byteAt a = u.byteAt a := by
  cases he <;> rfl

end

/-- Settles O19: every store of a command goes to one of its stored bytes, and these stay the same while it runs. -/
theorem memoryFrameOfEveryCommand : Obligations.MemoryFrameOfEveryCommand := by
  intro i s t a h ha
  have hkept : storedAt i t = storedAt i s ∧ t.byteAt a = s.byteAt a := by
    refine exec_preserves (P := fun u => storedAt i u = storedAt i s ∧ u.byteAt a = s.byteAt a) h ⟨rfl, rfl⟩ ?_ ?_
    · rintro u v hc ⟨hstored, hbyte⟩
      exact ⟨(storedAt_change hc).trans hstored, (byteAt_change hc (hstored ▸ ha)).trans hbyte⟩
    · rintro u v he ⟨hstored, hbyte⟩
      exact ⟨(storedAt_of_bindingsKept (bindingsKept_ending he)).trans hstored, (byteAt_ending he a).trans hbyte⟩
  exact hkept.2

end Sys2Proof.Machine

/-! ## Unconstructed slots -/

namespace Sys2Proof.Machine

open Sys2Proof.Safety

theorem whenConstructed_none {α : Type} {s : State} {slot : Byte} {held : Option α} {k : α → Result}
    (h : held = none) : whenConstructed s slot held k = raiseFault s .slotUnconfigured (zextByte slot) := by
  rw [h, whenConstructed]

/-- A command but CFG on an unconstructed slot is checks 2, 5 and 6 of R214, and no more. -/
theorem exec_unconstructed {i : Instr} {s : State} {kind : SlotKind} {slot : Byte}
    (hs : slotOf i = some (kind, slot)) (hi : isConstruct i = false) (hu : constructed s kind slot = false) :
    exec i s = withSlot s (slotCount s kind) slot (raiseFault s .slotUnconfigured (zextByte slot)) := by
  cases i with
  | status | memGetByte | memSetByte | memGetBit | memSetBit | memByteAtStart | memBitAtStart | memStartOffset
  | memDump => cases hs
  | bregCfg | wregCfg | timerCfg => cases hi
  | bregPull | bregPush | bregGetBit | bregSetBit | bregValue | bregSetValue
  | wregPull | wregPush | wregGetBit | wregSetBit | wregGetComp | wregSetComp | wregValue | wregSetValue
  | timerUpdate | timerValue =>
    cases hs
    exact congrArg (withSlot s _ slot) (whenConstructed_none (by simpa [constructed] using hu))

/-- Settles O26: on an existing slot of a running block the checks come to check 6, which fails. -/
theorem unconstructedSlotRaisesSlotUnconfigured : Obligations.UnconstructedSlotRaisesSlotUnconfigured := by
  intro i s kind slot hf hs hi hn hu
  rw [exec_unconstructed hs hi hu, withSlot_ok hf hn, raiseFault_eq, toNat_zextByte]
  rfl

end Sys2Proof.Machine

/-! ## Decoding by the opcode's row -/

namespace Sys2Proof

/-- An opcode names at most one command: R73 lists each OP once. -/
theorem mnemonicOfOpcode_opcode (m : Mnemonic) : mnemonicOfOpcode m.opcode = some m := by
  cases m <;> rfl

theorem mnemonicOfOpcode_eq_some {op : Byte} {m : Mnemonic} : mnemonicOfOpcode op = some m ↔ op = m.opcode := by
  constructor
  · intro h
    have hop := List.find?_some (show Mnemonic.all.find? (fun m => m.opcode == op) = some m from h)
    exact (eq_of_beq hop).symm
  · rintro rfl
    exact mnemonicOfOpcode_opcode m

/-- A word with an assigned OP is that row's command, or its must-be-zero bits reject it (R73, R76). -/
theorem decode_of_opcode {w : Command} {m : Mnemonic} (h : opField w = m.opcode) :
    decode w =
      if reservedClear m (slotField w) (aField w) (bField w) (cField w) then
        .ok (buildInstr m (slotField w) (aField w) (bField w) (cField w))
      else .error (.reservedBits (opField w)) := by
  simp only [decode, mnemonicOfOpcode_eq_some.2 h]

theorem decode_of_no_mnemonic {w : Command} (h : mnemonicOfOpcode (opField w) = none) :
    decode w = .error (.illegalOpcode (opField w)) := by
  simp only [decode, h]

@[simp] theorem mnemonic_buildInstr (m : Mnemonic) (slot : Byte) (a b c : Half) :
    (buildInstr m slot a b c).mnemonic = m := by
  cases m <;> rfl

/-- A word is a command of row `m` exactly when it has the row's OP and zeros where the row must have them. -/
theorem decode_mnemonic_iff {w : Command} {m : Mnemonic} :
    (∃ i, decode w = .ok i ∧ i.mnemonic = m) ↔
      opField w = m.opcode ∧ reservedClear m (slotField w) (aField w) (bField w) (cField w) = true := by
  constructor
  · rintro ⟨i, hi, rfl⟩
    cases hm : mnemonicOfOpcode (opField w) with
    | none => rw [decode_of_no_mnemonic hm] at hi; cases hi
    | some m =>
      have hop := mnemonicOfOpcode_eq_some.1 hm
      rw [decode_of_opcode hop] at hi
      split_ifs at hi with hclear
      cases hi
      rw [mnemonic_buildInstr]
      exact ⟨hop, hclear⟩
  · rintro ⟨hop, hclear⟩
    exact ⟨_, by rw [decode_of_opcode hop, if_pos hclear], mnemonic_buildInstr _ _ _ _ _⟩

/-! ### The word of a command -/

theorem opField_encode (i : Instr) : opField (encode i) = i.mnemonic.opcode := by
  cases i <;> exact opField_commandWord _ _ _ _ _

/-- The encoder writes zeros in every must-be-zero bit (R74). -/
theorem reservedClear_encode (i : Instr) :
    reservedClear i.mnemonic (slotField (encode i)) (aField (encode i)) (bField (encode i)) (cField (encode i)) =
      true := by
  cases i <;> simp [encode, Instr.mnemonic, reservedClear]

/-- Every operand of a command is read back from the field the encoder put it in (R72). -/
theorem buildInstr_encode (i : Instr) :
    buildInstr i.mnemonic (slotField (encode i)) (aField (encode i)) (bField (encode i)) (cField (encode i)) = i := by
  cases i <;> simp [encode, Instr.mnemonic, buildInstr]

/-- Settles O1: the encoded word has its row's OP and clear reserved bits, and its fields build the command again. -/
theorem encodeThenDecodeIsIdentity : Obligations.EncodeThenDecodeIsIdentity := by
  intro i
  rw [decode_of_opcode (opField_encode i), if_pos (reservedClear_encode i), buildInstr_encode]

/-- Settles O5: the row of STATUS has no must-be-zero bit. -/
theorem statusIgnoresItsOtherBits : Obligations.StatusIgnoresItsOtherBits := by
  intro w h
  exact (decode_of_opcode (m := .status) h).trans (if_pos rfl)

/-- Settles O6: each of the eight words is the encoding of the command it stands for. -/
theorem wordsOfTheSpecDecode : Obligations.WordsOfTheSpecDecode :=
  ⟨encodeThenDecodeIsIdentity .status, encodeThenDecodeIsIdentity (.memSetByte 4 0xFF),
    encodeThenDecodeIsIdentity (.memSetBit 33 true), encodeThenDecodeIsIdentity (.bregGetBit 1 7),
    encodeThenDecodeIsIdentity (.wregCfg 1 2 200 0xABCD), encodeThenDecodeIsIdentity (.wregSetComp 0 1 0xCD),
    encodeThenDecodeIsIdentity (.timerCfg 3 9 65535 255), encodeThenDecodeIsIdentity (.timerUpdate 1)⟩

end Sys2Proof

/-! ## The opcode table's match and mask words -/

namespace Sys2Proof

/-! ### Words and their fields (R70) -/

theorem commandWord_fields (w : Command) :
    commandWord (opField w) (slotField w) (aField w) (bField w) (cField w) = w := by
  apply BitVec.eq_of_toNat_eq
  simp only [toNat_commandWord, opField, slotField, aField, bField, cField, BitVec.extractLsb'_toNat,
    Nat.shiftRight_eq_div_pow]
  have := w.isLt
  omega

theorem command_eq_iff {w v : Command} :
    w = v ↔ opField w = opField v ∧ slotField w = slotField v ∧ aField w = aField v ∧ bField w = bField v ∧
      cField w = cField v := by
  constructor
  · rintro rfl
    exact ⟨rfl, rfl, rfl, rfl, rfl⟩
  · rintro ⟨hop, hslot, ha, hb, hc⟩
    rw [← commandWord_fields w, ← commandWord_fields v, hop, hslot, ha, hb, hc]

@[simp] theorem opField_and (w v : Command) : opField (w &&& v) = opField w &&& opField v := BitVec.extractLsb'_and
@[simp] theorem slotField_and (w v : Command) : slotField (w &&& v) = slotField w &&& slotField v :=
  BitVec.extractLsb'_and
@[simp] theorem aField_and (w v : Command) : aField (w &&& v) = aField w &&& aField v := BitVec.extractLsb'_and
@[simp] theorem bField_and (w v : Command) : bField (w &&& v) = bField w &&& bField v := BitVec.extractLsb'_and
@[simp] theorem cField_and (w v : Command) : cField (w &&& v) = cField w &&& cField v := BitVec.extractLsb'_and

/-! ### The rows -/

theorem exists_row_of_mnemonic (m : Mnemonic) : ∃ row ∈ opcodeTable, row.1 = m := by
  cases m <;> simp [opcodeTable]

/-- Every row's mask fixes the whole of OP, and its match word is OP with zeros below. -/
theorem opcodeTable_words : ∀ row ∈ opcodeTable,
    opField row.2.2 = 0xff ∧ row.2.1 = commandWord row.1.opcode 0 0 0 0 := by decide

/-- A mask of the bits from `k` up finds zeros exactly where those bits are zero. -/
theorem and_eq_zero_iff_extractLsb' {x mask : Half} {k n : Nat} (hk : k + n = 16)
    (hmask : ∀ j < 16, mask.getLsbD j = decide (k ≤ j)) : x &&& mask = 0 ↔ x.extractLsb' k n = 0 := by
  constructor
  · intro h
    refine BitVec.eq_of_getLsbD_eq fun i hi => ?_
    have hbit : (x &&& mask).getLsbD (k + i) = false := by simp [h]
    simpa [hi, hmask (k + i) (by omega)] using hbit
  · intro h
    refine BitVec.eq_of_getLsbD_eq fun j hj => ?_
    rw [BitVec.getLsbD_and, hmask j hj]
    by_cases hkj : k ≤ j
    · have hbit : (x.extractLsb' k n).getLsbD (j - k) = false := by simp [h]
      have hlt : j - k < n := by omega
      simpa [hlt, hkj] using hbit
    · simp [hkj]

/-- R74's must-be-zero fields are the bits below OP that the row's mask fixes. -/
theorem reservedClear_iff_masked : ∀ row ∈ opcodeTable, ∀ (slot : Byte) (a b c : Half),
    reservedClear row.1 slot a b c = true ↔
      slot &&& slotField row.2.2 = 0 ∧ a &&& aField row.2.2 = 0 ∧ b &&& bField row.2.2 = 0 ∧
      c &&& cField row.2.2 = 0 := by
  have hbyte (x : Byte) : x &&& 255#8 = x := BitVec.and_allOnes
  have hhalf (x : Half) : x &&& 65535#16 = x := BitVec.and_allOnes
  have hhigh (x : Half) : x &&& 65280#16 = 0#16 ↔ x.extractLsb' 8 8 = 0#8 := and_eq_zero_iff_extractLsb' rfl (by decide)
  have hflag (x : Half) : x &&& 65534#16 = 0#16 ↔ x.extractLsb' 1 15 = 0#15 :=
    and_eq_zero_iff_extractLsb' rfl (by decide)
  simp [opcodeTable, reservedClear, slotField, aField, bField, cField, hbyte, hhalf, hhigh, hflag, and_assoc]

/-- A word matches a row exactly when it has the row's OP and zeros where the row must have them (R73, R74). -/
theorem matches_row_iff {row : Mnemonic × Command × Command} (hrow : row ∈ opcodeTable) (w : Command) :
    w &&& row.2.2 = row.2.1 ↔
      opField w = row.1.opcode ∧ reservedClear row.1 (slotField w) (aField w) (bField w) (cField w) = true := by
  obtain ⟨hmask, hmatch⟩ := opcodeTable_words row hrow
  have hop : opField w &&& opField row.2.2 = opField w := hmask ▸ BitVec.and_allOnes
  rw [hmatch, command_eq_iff, reservedClear_iff_masked row hrow]
  simp [hop]

/-- Settles O2: a match and a command of the row are both the row's OP with clear must-be-zero bits, and every command
has a row. -/
theorem decodeAgreesWithOpcodeTable : Obligations.DecodeAgreesWithOpcodeTable := by
  refine ⟨fun row hrow w => (matches_row_iff hrow w).trans decode_mnemonic_iff.symm, fun w hno => ?_⟩
  cases hd : decode w with
  | error e => exact ⟨e, rfl⟩
  | ok i =>
    obtain ⟨row, hrow, hm⟩ := exists_row_of_mnemonic i.mnemonic
    exact absurd ((matches_row_iff hrow w).2 (decode_mnemonic_iff.1 ⟨i, hd, hm.symm⟩)) (hno row hrow)

end Sys2Proof

/-! ## Words that are no command -/

namespace Sys2Proof.Machine

open Sys2Proof.Safety

theorem step_withCommand (s : State) (w : Command) : step (s.withCommand w) = runCommand w s :=
  step_of_command (State.withCommand_inputs s w)

/-- A running block answers a rejected word with ILLEGAL_COMMAND and INFO = OP (R75, R76). -/
theorem step_of_decode_error {s : State} {w : Command} {e : DecodeError} (hf : Running s)
    (h : decode w = .error e) : step (s.withCommand w) = .next (faultWith s 0x10 e.op.toNat) := by
  rw [step_withCommand]
  simp only [runCommand, h]
  rw [execIllegal, whenRunning_running hf, raiseFault_eq, toNat_zextByte]
  rfl

/-- The OP values R73 assigns. -/
theorem opcode_ranges (m : Mnemonic) :
    m.opcode.toNat = 0x01 ∨ (0x10 ≤ m.opcode.toNat ∧ m.opcode.toNat ≤ 0x17) ∨
    (0x20 ≤ m.opcode.toNat ∧ m.opcode.toNat ≤ 0x26) ∨ (0x30 ≤ m.opcode.toNat ∧ m.opcode.toNat ≤ 0x38) ∨
    (0x40 ≤ m.opcode.toNat ∧ m.opcode.toNat ≤ 0x42) := by
  cases m <;> decide

/-- Settles O3: the OP values of R75 lie outside the assigned ranges, so the word is rejected. -/
theorem illegalOpcodeRaisesIllegalCommand : Obligations.IllegalOpcodeRaisesIllegalCommand := by
  intro s w hf hop
  cases hm : mnemonicOfOpcode (opField w) with
  | none => exact step_of_decode_error hf (decode_of_no_mnemonic hm)
  | some m =>
    have hassigned := opcode_ranges m
    rw [← mnemonicOfOpcode_eq_some.1 hm] at hassigned
    omega

/-- Settles O4: a word with a row's OP that does not match the row has a must-be-zero bit set, so it is rejected. -/
theorem reservedBitRaisesIllegalCommand : Obligations.ReservedBitRaisesIllegalCommand := by
  intro s w row hf hrow _ hop hne
  have hw : opField w = row.1.opcode := by
    rw [hop, (opcodeTable_words row hrow).2, opField_commandWord]
  have hclear : ¬reservedClear row.1 (slotField w) (aField w) (bField w) (cField w) = true := fun h =>
    hne ((matches_row_iff hrow w).2 ⟨hw, h⟩)
  have hdec : decode w = .error (.reservedBits (opField w)) := by
    rw [decode_of_opcode hw, if_neg hclear]
  exact step_of_decode_error hf hdec

end Sys2Proof.Machine

/-! ## The written form (R85) -/

namespace Sys2Proof

@[simp] theorem fits_slot_toNat (kind : SlotKind) (slot : Byte) :
    Operand.fits (.slot kind) (.slot kind slot.toNat) = true := by
  have := slot.isLt
  simpa [Operand.fits] using this

@[simp] theorem fits_num_toNat {width : Nat} (x : BitVec width) : Operand.fits (.num width) (.num x.toNat) = true := by
  simpa [Operand.fits] using x.isLt

@[simp] theorem fits_flagOperand (on : Bool) : Operand.fits (.num 1) (flagOperand on) = true := by
  cases on <;> rfl

/-- Each operand is written at its own field's width, in the place its form has it. -/
theorem wellFormed_writtenOf (i : Instr) : (writtenOf i).wellFormed = true := by
  cases i <;> simp [writtenOf, Written.wellFormed, Instr.mnemonic, Mnemonic.form, writtenOperands, operandsFit]

theorem flag_beq_one (on : Bool) : ((if on then 1 else 0 : Nat) == 1) = on := by
  cases on <;> rfl

/-- The assembler reads back every operand that was written. -/
theorem assemble_writtenOf (i : Instr) : assemble (writtenOf i) = some i := by
  rw [assemble, if_pos (wellFormed_writtenOf i)]
  cases i <;> simp [writtenOf, Instr.mnemonic, writtenOperands, flagOperand, flag_beq_one]

/-- Settles O7: each operand fits its place at its field's width, and is read back as it was written. -/
theorem writtenFormAssembles : Obligations.WrittenFormAssembles := fun i =>
  ⟨wellFormed_writtenOf i, assemble_writtenOf i⟩

/-- In a well-formed operand list the operand at each place fits the form of that place. -/
theorem fits_of_operandsFit {fs : List OperandForm} {os : List Operand} {k : Nat} {f : OperandForm} {o : Operand}
    (h : operandsFit fs os = true) (hf : fs[k]? = some f) (ho : os[k]? = some o) : Operand.fits f o = true := by
  induction fs generalizing os k with
  | nil => simp at hf
  | cons g fs ih =>
    cases os with
    | nil => simp at ho
    | cons p os =>
      obtain ⟨hfirst, hrest⟩ : Operand.fits g p = true ∧ operandsFit fs os = true := by
        simpa [operandsFit] using h
      cases k with
      | zero =>
        obtain rfl : g = f := by simpa using hf
        obtain rfl : p = o := by simpa using ho
        exact hfirst
      | succ k => exact ih hrest (by simpa using hf) (by simpa using ho)

theorem assemble_of_misfit {w : Written} {k : Nat} {f : OperandForm} {o : Operand}
    (hf : w.mnemonic.form[k]? = some f) (ho : w.operands[k]? = some o) (h : Operand.fits f o = false) :
    assemble w = none := by
  have hill : ¬w.wellFormed = true := fun hw => by
    rw [fits_of_operandsFit hw hf ho] at h
    cases h
  rw [assemble, if_neg hill]

/-- Settles O8: a number too wide, a slot number too large and a wrong letter each fail the check of their place. -/
theorem assemblerRefusesBadOperand : Obligations.AssemblerRefusesBadOperand := by
  intro w k f o hf ho hbad
  refine assemble_of_misfit hf ho ?_
  rcases hbad with ⟨width, n, rfl, rfl, hn⟩ | ⟨kind, n, rfl, rfl, hn⟩ | ⟨kind, kind', n, rfl, rfl, hne⟩
  · simpa [Operand.fits] using hn
  · simpa [Operand.fits] using hn
  · simp [Operand.fits, hne]

end Sys2Proof

/-! ## One response to every command word -/

namespace Sys2Proof.Machine

open Sys2Proof.Safety

theorem responses_latch_change {i : Instr} {u v : State} (hc : Change i u v) :
    v.responses = u.responses ∧ v.latch = u.latch := by
  cases hc <;> simp

/-- However many changes a command makes, none of them answers or touches the latch. -/
theorem responses_latch_changes {i : Instr} {s u : State} (h : Relation.ReflTransGen (Change i) s u) :
    u.responses = s.responses ∧ u.latch = s.latch := by
  induction h with
  | refl => exact ⟨rfl, rfl⟩
  | tail _ hc ih =>
    obtain ⟨hr, hl⟩ := responses_latch_change hc
    exact ⟨hr.trans ih.1, hl.trans ih.2⟩

/-- A command word, legal or not, ends in one of the three ways of R81, with no response and no fault before that. -/
theorem runCommand_next {w : Command} {s t : State} (h : runCommand w s = .next t) :
    ∃ u, u.responses = s.responses ∧ u.latch = s.latch ∧ Ending s u t := by
  unfold runCommand at h
  split at h
  · obtain ⟨u, hu, hend⟩ := exec_next h
    obtain ⟨hr, hl⟩ := responses_latch_changes hu
    exact ⟨u, hr, hl, hend⟩
  · rcases execIllegal_next h with ⟨hf, rfl⟩ | ⟨hf, rfl⟩
    · exact ⟨s, rfl, rfl, .halted hf⟩
    · exact ⟨s, rfl, rfl, .fault _ _ hf⟩

/-- Settles O18: the one response is that of the ending, whose three ways are the three ST codes. -/
theorem everyCommandYieldsOneResponse : Obligations.EveryCommandYieldsOneResponse := by
  intro s t w h
  rw [step_withCommand] at h
  obtain ⟨u, hr, hl, hend⟩ := runCommand_next h
  cases hend with
  | ok r hst hz => exact ⟨r, by simp [hr], hz, .inl ⟨hst, hl⟩⟩
  | fault c info hf =>
    refine ⟨faultResponse c.code info, by simp [hr], rspZero_packRsp _ _ _, .inr (.inl ⟨rspSt_packRsp _ _ _, hf, ?_⟩)⟩
    simp [faultResponse]
  | halted hf =>
    exact ⟨faultedResponse s.latch, rfl, rspZero_packRsp _ _ _,
      .inr (.inr ⟨rspSt_packRsp _ _ _, hf, rspCause_packRsp _ _ _, rspData_packRsp _ _ _, rfl⟩)⟩

end Sys2Proof.Machine

/-! ## The memory buffer

First the checks and responses these commands share, in the terms of the claims; then one equation per command of a
running block, which the statements are assembled from. -/

namespace Sys2Proof.Machine

open Sys2Proof.Safety

section
variable {s : State}

/-! ### Faults and the dump in the terms of the claims -/

theorem memRead_fault {i : Half} {k : Byte → Result} (h : s.params.cap ≤ i.toNat) :
    memRead s i k = .next (faultWith s 0x01 i.toNat) := by
  rw [memRead_oor h, raiseFault_eq]
  rfl

theorem memWrite_fault {i : Half} {v : Byte} {k : State → Result} (h : s.params.cap ≤ i.toNat) :
    memWrite s i v k = .next (faultWith s 0x01 i.toNat) := by
  rw [memWrite_oor h, raiseFault_eq]
  rfl

/-- A bit index that a command carries is its own INFO (R53, R54). -/
theorem raiseFault_bitIndex (c : Cause) (b : Half) :
    raiseFault s c (BitVec.ofNat 16 b.toNat) = .next (faultWith s c.code.toNat b.toNat) := by
  rw [raiseFault_eq, BitVec.ofNat_toNat, BitVec.setWidth_eq]

theorem checkBitIndex_pastEnd {b : Half} {k : Result} (h : b.toNat = s.params.cap * 8) :
    checkBitIndex s b.toNat k = .next (faultWith s 0x06 b.toNat) := by
  rw [checkBitIndex, if_neg h.le.not_gt, if_pos h, raiseFault_bitIndex]
  rfl

theorem checkBitIndex_oor {b : Half} {k : Result} (h : s.params.cap * 8 < b.toNat) :
    checkBitIndex s b.toNat k = .next (faultWith s 0x02 b.toNat) := by
  rw [checkBitIndex, if_pos h, raiseFault_bitIndex]
  rfl

theorem answer_dumpResponse (s : State) (data : Half) (bytes : List Byte) :
    s.answer (dumpResponse data bytes) = answered s 0 0 data.toNat bytes := by
  simp [State.answer, dumpResponse, answered, packRsp_eq_rspOf, stOk]

/-! ### Memory bits (R52, R55) -/

/-- `s` with memory bit `b` replaced by `on`: the state `BitIndexWrite(b, on)` goes on with (R55). -/
def State.setMemBit (s : State) (b : Nat) (on : Bool) : State := s.setByte (b / 8) (s.byteWithBit b on)

theorem bitPosition_mod_lt (order : BitOrder) (b : Nat) : bitPosition order 8 (b % 8) < 8 :=
  bitPosition_lt order (Nat.mod_lt b (by decide))

theorem toNat_memBit (s : State) (b : Nat) :
    (s.memBit b).toNat = bitOf (s.byteAt (b / 8)).toNat (posOf s.params.memBitOrder 8 (b % 8)) := by
  rw [bitOf_eq, posOf_eq, State.memBit]

/-- The bits of byte `b / 8` after bit `b` is replaced: the named one is `on`, the other seven stay. -/
theorem bitOf_byteWithBit (s : State) (b : Nat) (on : Bool) (q : Nat) :
    bitOf (s.byteWithBit b on).toNat q =
      if q = posOf s.params.memBitOrder 8 (b % 8) then on.toNat else bitOf (s.byteAt (b / 8)).toNat q := by
  rw [bitOf_eq, bitOf_eq, posOf_eq, State.byteWithBit, getLsbD_replaceBit]
  split_ifs <;> simp [bitPosition_mod_lt]

theorem memBit_setMemBit_self (s : State) (b : Nat) (on : Bool) : (s.setMemBit b on).memBit b = on := by
  rw [State.memBit, State.setMemBit, State.byteAt_setByte_self, State.byteWithBit, State.setByte_params,
    getLsbD_replaceBit, if_pos rfl, decide_eq_true (bitPosition_mod_lt _ b), Bool.true_and]

/-- Another bit index names another byte, or another bit of the same byte. -/
theorem memBit_setMemBit_ne (s : State) {b b' : Nat} (on : Bool) (h : b' ≠ b) :
    (s.setMemBit b on).memBit b' = s.memBit b' := by
  unfold State.memBit State.setMemBit
  by_cases hbyte : b' / 8 = b / 8
  · have hmod : b' % 8 ≠ b % 8 := by omega
    have hpos := mt (bitPosition_inj s.params.memBitOrder (Nat.mod_lt b' (by decide)) (Nat.mod_lt b (by decide))) hmod
    rw [hbyte, State.byteAt_setByte_self, State.byteWithBit, getLsbD_replaceBit]
    exact if_neg hpos
  · rw [State.byteAt_setByte_ne s _ hbyte, State.setByte_params]

/-! ### The commands of a running block -/

theorem exec_memGetByte (hf : Running s) (i : Half) :
    exec (.memGetByte i) s = memRead s i fun v => respond s (zextByte v) := whenRunning_running hf

theorem exec_memSetByte (hf : Running s) (i : Half) (v : Byte) :
    exec (.memSetByte i v) s = memWrite s i v fun t => respond t 0 := whenRunning_running hf

theorem exec_memGetBit (hf : Running s) (b : Half) :
    exec (.memGetBit b) s = checkBitIndex s b.toNat (respond s (zextBit (s.memBit b.toNat))) := whenRunning_running hf

theorem exec_memSetBit (hf : Running s) (b : Half) (on : Bool) :
    exec (.memSetBit b on) s = checkBitIndex s b.toNat (respond (s.setMemBit b.toNat on) 0) := whenRunning_running hf

theorem exec_memGetByte_ok (hf : Running s) {i : Half} (hi : i.toNat < s.params.cap) :
    exec (.memGetByte i) s = .next (okWith s (s.byteAt i.toNat).toNat) := by
  rw [exec_memGetByte hf, memRead_ok hi, respond_eq, toNat_zextByte]

theorem exec_memSetByte_ok (hf : Running s) {i : Half} (v : Byte) (hi : i.toNat < s.params.cap) :
    exec (.memSetByte i v) s = .next (okWith (s.setByte i.toNat v) 0) := by
  rw [exec_memSetByte hf, memWrite_ok hi, respond_eq]
  rfl

theorem exec_memGetBit_ok (hf : Running s) {b : Half} (hb : b.toNat < s.params.cap * 8) :
    exec (.memGetBit b) s = .next (okWith s (s.memBit b.toNat).toNat) := by
  rw [exec_memGetBit hf, checkBitIndex_ok hb, respond_eq, toNat_zextBit]

theorem exec_memSetBit_ok (hf : Running s) {b : Half} (on : Bool) (hb : b.toNat < s.params.cap * 8) :
    exec (.memSetBit b on) s = .next (okWith (s.setMemBit b.toNat on) 0) := by
  rw [exec_memSetBit hf, checkBitIndex_ok hb, respond_eq]
  rfl

theorem exec_memGetBit_pastEnd (hf : Running s) {b : Half} (hb : b.toNat = s.params.cap * 8) :
    exec (.memGetBit b) s = .next (faultWith s 0x06 b.toNat) := by
  rw [exec_memGetBit hf, checkBitIndex_pastEnd hb]

theorem exec_memGetBit_oor (hf : Running s) {b : Half} (hb : s.params.cap * 8 < b.toNat) :
    exec (.memGetBit b) s = .next (faultWith s 0x02 b.toNat) := by
  rw [exec_memGetBit hf, checkBitIndex_oor hb]

theorem exec_memByteAtStart (hf : Running s) (hstart : s.start.toNat < s.params.cap) :
    exec .memByteAtStart s = .next (okWith s (s.byteAt s.start.toNat).toNat) :=
  exec_memGetByte_ok hf hstart

theorem exec_memBitAtStart (hf : Running s) (hstart : s.start.toNat < s.params.cap) :
    exec .memBitAtStart s =
      .next (okWith s (bitOf (s.byteAt s.start.toNat).toNat (posOf s.params.memBitOrder 8 0))) := by
  have hread : exec .memBitAtStart s = respond s (zextBit (s.memBit (s.start.toNat * 8))) :=
    (whenRunning_running hf).trans (checkBitIndex_ok (by omega))
  rw [hread, respond_eq, toNat_zextBit, toNat_memBit, Nat.mul_div_cancel _ (by decide), Nat.mul_mod_left]

theorem exec_memStartOffset (hf : Running s) : exec .memStartOffset s = .next (okWith s s.start.toNat) :=
  (whenRunning_running hf).trans (respond_eq s s.start)

theorem exec_memDump (hf : Running s) (hcap : s.params.cap ≤ 8191) :
    exec .memDump s = .next (answered s 0 0 s.params.cap s.snapshot) := by
  have hdump : exec .memDump s = .next (s.answer (dumpResponse (BitVec.ofNat 16 s.params.cap) s.snapshot)) :=
    whenRunning_running hf
  rw [hdump, answer_dumpResponse, BitVec.toNat_ofNat, Nat.mod_eq_of_lt (by omega)]

end

/-! ### The statements -/

/-- Settles O55: the bit written reads as written, any other bit index names another bit, and an index that is out of
range is so before and after. -/
theorem bitsAreIndependent : Obligations.BitsAreIndependent := by
  intro s b b' on hf hb
  have hft : Running (okWith (s.setMemBit b.toNat on) 0) := hf
  refine ⟨_, exec_memSetBit_ok hf on hb, ?_, fun hne => ?_⟩
  · have hself : (okWith (s.setMemBit b.toNat on) 0).memBit b.toNat = on := memBit_setMemBit_self s b.toNat on
    rw [exec_memGetBit_ok hft hb, hself]
  · rcases lt_trichotomy b'.toNat (s.params.cap * 8) with hlt | heq | hgt
    · have hother : (okWith (s.setMemBit b.toNat on) 0).memBit b'.toNat = s.memBit b'.toNat :=
        memBit_setMemBit_ne s on (mt BitVec.eq_of_toNat_eq hne)
      exact .inl ⟨_, exec_memGetBit_ok hf hlt, by rw [exec_memGetBit_ok hft hlt, hother]⟩
    · exact .inr ⟨_, exec_memGetBit_pastEnd hf heq, exec_memGetBit_pastEnd hft heq⟩
    · exact .inr ⟨_, exec_memGetBit_oor hf hgt, exec_memGetBit_oor hft hgt⟩

/-- Settles O27: the read answers the byte, or its check fails. -/
theorem memGetByteReadsOrFaults : Obligations.MemGetByteReadsOrFaults := by
  intro s i hf
  exact ⟨encodeThenDecodeIsIdentity (.memGetByte i), exec_memGetByte_ok hf,
    fun hi => (exec_memGetByte hf i).trans (memRead_fault hi)⟩

/-- Settles O28: the write replaces the byte, or its check fails before anything is written. -/
theorem memSetByteWritesOrFaults : Obligations.MemSetByteWritesOrFaults := by
  intro s i v hf
  exact ⟨encodeThenDecodeIsIdentity (.memSetByte i v),
    fun hi => ⟨_, exec_memSetByte_ok hf v hi, writtenAt_write s i.toNat v⟩,
    fun hi => (exec_memSetByte hf i v).trans (memWrite_fault hi)⟩

/-- Settles O29: the bit read is the one MEM_BIT_ORDER names, and the two checks are the two other ranges. -/
theorem memGetBitReadsOrFaults : Obligations.MemGetBitReadsOrFaults := by
  intro s b hf
  exact ⟨encodeThenDecodeIsIdentity (.memGetBit b), fun hb => toNat_memBit s b.toNat ▸ exec_memGetBit_ok hf hb,
    exec_memGetBit_pastEnd hf, exec_memGetBit_oor hf⟩

/-- Settles O30: the byte stored is the old one with the named bit replaced, and the two checks are the two other
ranges. -/
theorem memSetBitWritesOneBitOrFaults : Obligations.MemSetBitWritesOneBitOrFaults := by
  intro s b on hf
  refine ⟨encodeThenDecodeIsIdentity (.memSetBit b on), fun hb => ?_,
    fun hb => (exec_memSetBit hf b on).trans (checkBitIndex_pastEnd hb),
    fun hb => (exec_memSetBit hf b on).trans (checkBitIndex_oor hb)⟩
  refine ⟨_, s.byteWithBit b.toNat on, exec_memSetBit_ok hf on hb, writtenAt_write s _ _, ?_, fun q _ hq => ?_⟩
  · rw [bitOf_byteWithBit, if_pos rfl]
  · rw [bitOf_byteWithBit, if_neg hq]

/-- Settles O31: with START below CAP both checks pass, and bit index START * 8 is bit 0 of byte START. -/
theorem startCommandsReadAtStart : Obligations.StartCommandsReadAtStart := by
  intro s hf hstart
  exact ⟨⟨encodeThenDecodeIsIdentity .memByteAtStart, exec_memByteAtStart hf hstart⟩,
    ⟨encodeThenDecodeIsIdentity .memBitAtStart, exec_memBitAtStart hf hstart⟩,
    encodeThenDecodeIsIdentity .memStartOffset, exec_memStartOffset hf⟩

/-- Settles O32: the bytes are the snapshot of memory, and a CAP of at most 8191 fits DATA. -/
theorem memDumpGivesEveryByte : Obligations.MemDumpGivesEveryByte := by
  intro s hf hcap
  refine ⟨encodeThenDecodeIsIdentity .memDump, s.snapshot, exec_memDump hf hcap, ?_, fun i hi => ?_⟩
  · simp [State.snapshot]
  · simp [State.snapshot, hi]

/-- Settles O54: the byte read is the byte just written. -/
theorem byteRoundTrip : Obligations.ByteRoundTrip := by
  intro s i v hf hi
  have hft : Running (okWith (s.setByte i.toNat v) 0) := hf
  have hread : (okWith (s.setByte i.toNat v) 0).byteAt i.toNat = v := State.byteAt_setByte_self s i.toNat v
  exact ⟨_, _, exec_memSetByte_ok hf v hi, exec_memGetByte_ok hft hi, by rw [hread]⟩

end Sys2Proof.Machine

/-! ## The byte register

First what the register bits of R129 are in the terms of the claims, for a cache of any width; then one equation per
command on a constructed slot of a running block, which the statements are assembled from. -/

namespace Sys2Proof.Machine

open Sys2Proof.Safety

/-! ### Register bits (R129) -/

theorem checkRegBit_fault {s : State} {w : Nat} {i : Half} {k : Result} (h : w ≤ i.toNat) :
    checkRegBit s w i k = .next (faultWith s 0x03 i.toNat) := by
  rw [checkRegBit, if_pos h, raiseFault_eq]
  rfl

theorem toNat_regBit {w : Nat} (s : State) (cache : BitVec w) (i : Half) :
    (regBit s cache i).toNat = bitOf cache.toNat (posOf s.params.regBitOrder w i.toNat) := by
  rw [bitOf_eq, posOf_eq, regBit]

/-- The bits of a cache after bit `i` is replaced: the named one is `on`, the others stay. -/
theorem bitOf_withRegBit {w : Nat} (s : State) (cache : BitVec w) {i : Half} (on : Bool) (hi : i.toNat < w) (q : Nat) :
    bitOf (withRegBit s cache i on).toNat q =
      if q = posOf s.params.regBitOrder w i.toNat then on.toNat else bitOf cache.toNat q := by
  rw [bitOf_eq, bitOf_eq, posOf_eq, withRegBit, getLsbD_replaceBit]
  split_ifs <;> simp [bitPosition_lt _ hi]

/-! ### Storing what is already there -/

theorem State.byteAt_setByte_byteAt (s : State) (i a : Nat) : (s.setByte i (s.byteAt i)).byteAt a = s.byteAt a := by
  by_cases h : a = i
  · rw [h, State.byteAt_setByte_self]
  · exact State.byteAt_setByte_ne s _ h

/-! ### The commands on an existing slot of a running block -/

theorem exec_bregCfg {s : State} {slot : Byte} (hf : Running s) (hn : slot.toNat < s.params.numBreg) (index : Half)
    (v : Byte) : exec (.bregCfg slot index v) s = .next (okWith (s.putBreg slot { idx := index, cache := v }) 0) :=
  (withSlot_ok hf hn).trans (respond_eq _ _)

section
variable {s : State} {slot : Byte} {r : ByteReg} (hf : Running s) (hn : slot.toNat < s.params.numBreg)
  (hr : s.breg? slot = some r)
include hf hn hr

theorem exec_bregPull_ok (hi : r.idx.toNat < s.params.cap) :
    exec (.bregPull slot) s = .next (okWith (s.putBreg slot { r with cache := s.byteAt r.idx.toNat }) 0) :=
  (withBreg_ok hf hn hr).trans ((memRead_ok hi).trans (respond_eq _ _))

theorem exec_bregPull_oor (hi : s.params.cap ≤ r.idx.toNat) :
    exec (.bregPull slot) s = .next (faultWith s 0x01 r.idx.toNat) :=
  (withBreg_ok hf hn hr).trans (memRead_fault hi)

theorem exec_bregPush_ok (hi : r.idx.toNat < s.params.cap) :
    exec (.bregPush slot) s = .next (okWith (s.setByte r.idx.toNat r.cache) 0) :=
  (withBreg_ok hf hn hr).trans ((memWrite_ok hi).trans (respond_eq _ _))

theorem exec_bregPush_oor (hi : s.params.cap ≤ r.idx.toNat) :
    exec (.bregPush slot) s = .next (faultWith s 0x01 r.idx.toNat) :=
  (withBreg_ok hf hn hr).trans (memWrite_fault hi)

theorem exec_bregGetBit_ok {i : Half} (hi : i.toNat < 8) :
    exec (.bregGetBit slot i) s =
      .next (okWith s (bitOf r.cache.toNat (posOf s.params.regBitOrder 8 i.toNat))) := by
  have hread : exec (.bregGetBit slot i) s = respond s (zextBit (regBit s r.cache i)) :=
    (withBreg_ok hf hn hr).trans (checkRegBit_ok hi)
  rw [hread, respond_eq, toNat_zextBit, toNat_regBit]

theorem exec_bregGetBit_oor {i : Half} (hi : 8 ≤ i.toNat) :
    exec (.bregGetBit slot i) s = .next (faultWith s 0x03 i.toNat) :=
  (withBreg_ok hf hn hr).trans (checkRegBit_fault hi)

theorem exec_bregSetBit_ok {i : Half} (on : Bool) (hi : i.toNat < 8) :
    exec (.bregSetBit slot i on) s =
      .next (okWith (s.putBreg slot { r with cache := withRegBit s r.cache i on }) 0) :=
  (withBreg_ok hf hn hr).trans ((checkRegBit_ok hi).trans (respond_eq _ _))

theorem exec_bregSetBit_oor {i : Half} (on : Bool) (hi : 8 ≤ i.toNat) :
    exec (.bregSetBit slot i on) s = .next (faultWith s 0x03 i.toNat) :=
  (withBreg_ok hf hn hr).trans (checkRegBit_fault hi)

theorem exec_bregValue : exec (.bregValue slot) s = .next (okWith s r.cache.toNat) := by
  have hread : exec (.bregValue slot) s = respond s (zextByte r.cache) := withBreg_ok hf hn hr
  rw [hread, respond_eq, toNat_zextByte]

theorem exec_bregSetValue (v : Byte) :
    exec (.bregSetValue slot v) s = .next (okWith (s.putBreg slot { r with cache := v }) 0) :=
  (withBreg_ok hf hn hr).trans (respond_eq _ _)

end

/-! ### The statements -/

/-- Settles O56: the push stores back the byte the pull has read, and the pull reads back the byte the push has
stored. -/
theorem pullPushIdentity : Obligations.PullPushIdentity := by
  intro s slot r hf hn hr hi
  constructor
  · have hpulled : (okWith (s.putBreg slot { r with cache := s.byteAt r.idx.toNat }) 0).breg? slot =
        some { r with cache := s.byteAt r.idx.toNat } := State.breg_putBreg_self s slot _
    exact ⟨_, _, exec_bregPull_ok hf hn hr hi, exec_bregPush_ok hf hn hpulled hi,
      State.byteAt_setByte_byteAt s r.idx.toNat⟩
  · have hpushed : (okWith (s.setByte r.idx.toNat r.cache) 0).byteAt r.idx.toNat = r.cache :=
      State.byteAt_setByte_self s _ _
    refine ⟨_, _, exec_bregPush_ok hf hn hr hi, exec_bregPull_ok hf hn hr hi, ?_⟩
    rw [hpushed]
    exact State.breg_putBreg_self _ slot r

/-- Settles O34: past the common checks BREG_CFG has no check, and puts the slot. -/
theorem bregCfgConstructs : Obligations.BregCfgConstructs := by
  intro s slot index v hf hn
  exact ⟨encodeThenDecodeIsIdentity (.bregCfg slot index v), _, exec_bregCfg hf hn index v, updatedAt_put _ _ _⟩

/-- Settles O35: the pull puts the byte read in the cache, or the check of its read fails. -/
theorem bregPullLoadsCacheOrFaults : Obligations.BregPullLoadsCacheOrFaults := by
  intro s slot r hf hn hr
  exact ⟨encodeThenDecodeIsIdentity (.bregPull slot),
    fun hi => ⟨_, exec_bregPull_ok hf hn hr hi, updatedAt_put _ _ _⟩, exec_bregPull_oor hf hn hr⟩

/-- Settles O36: the push writes the cache at the bound index, or the check of its write fails. -/
theorem bregPushStoresCacheOrFaults : Obligations.BregPushStoresCacheOrFaults := by
  intro s slot r hf hn hr
  exact ⟨encodeThenDecodeIsIdentity (.bregPush slot),
    fun hi => ⟨_, exec_bregPush_ok hf hn hr hi, writtenAt_write s r.idx.toNat r.cache⟩, exec_bregPush_oor hf hn hr⟩

/-- Settles O37: the bit read is the one REG_BIT_ORDER names in the cache, or the index fails its check. -/
theorem bregGetBitReadsCacheOrFaults : Obligations.BregGetBitReadsCacheOrFaults := by
  intro s slot i r hf hn hr
  exact ⟨encodeThenDecodeIsIdentity (.bregGetBit slot i), exec_bregGetBit_ok hf hn hr, exec_bregGetBit_oor hf hn hr⟩

/-- Settles O38: the new cache is the old one with the named bit replaced, or the index fails its check. -/
theorem bregSetBitEditsCacheOrFaults : Obligations.BregSetBitEditsCacheOrFaults := by
  intro s slot i on r hf hn hr
  refine ⟨encodeThenDecodeIsIdentity (.bregSetBit slot i on), fun hi => ?_, exec_bregSetBit_oor hf hn hr on⟩
  refine ⟨_, _, exec_bregSetBit_ok hf hn hr on hi, updatedAt_put _ _ _, ?_, fun q _ hq => ?_⟩
  · rw [bitOf_withRegBit s r.cache on hi, if_pos rfl]
  · rw [bitOf_withRegBit s r.cache on hi, if_neg hq]

/-- Settles O39: past the common checks neither command has a check, and neither goes to memory. -/
theorem bregValueCommandsUseCacheOnly : Obligations.BregValueCommandsUseCacheOnly := by
  intro s slot v r hf hn hr
  exact ⟨⟨encodeThenDecodeIsIdentity (.bregValue slot), exec_bregValue hf hn hr⟩,
    encodeThenDecodeIsIdentity (.bregSetValue slot v), _, exec_bregSetValue hf hn hr v, updatedAt_put _ _ _⟩

end Sys2Proof.Machine

/-! ## The word register

First components and the two bound bytes in the terms of the claims; then one equation per command on a constructed
slot of a running block, which the statements are assembled from. -/

namespace Sys2Proof.Machine

open Sys2Proof.Safety

/-! ### Components (R155, R156) -/

theorem checkComponent_fault {s : State} {i : Half} {k : Result} (h : 2 ≤ i.toNat) :
    checkComponent s i k = .next (faultWith s 0x04 i.toNat) := by
  rw [checkComponent, if_pos h, raiseFault_eq]
  rfl

theorem toNat_component_zero (cache : Half) : (component cache 0).toNat = cache.toNat / 256 := toNat_highByte cache

theorem toNat_component_one (cache : Half) : (component cache 1).toNat = cache.toNat % 256 := toNat_lowByte cache

theorem toNat_withComponent_zero (cache : Half) (v : Byte) :
    (withComponent cache 0 v).toNat = v.toNat * 256 + cache.toNat % 256 :=
  (toNat_composeBytes v _).trans (by rw [toNat_lowByte])

theorem toNat_withComponent_one (cache : Half) (v : Byte) :
    (withComponent cache 1 v).toNat = cache.toNat / 256 * 256 + v.toNat :=
  (toNat_composeBytes _ v).trans (by rw [toNat_highByte])

/-! ### The two bytes of a word register (R56) -/

/-- The value WREG_PULL composes: the byte at `lo` is the most significant one (R151). -/
def State.boundWord (s : State) (r : WordReg) : Half := composeBytes (s.byteAt r.lo.toNat) (s.byteAt r.hi.toNat)

/-- `s` with the cache's high byte at `lo`, then its low byte at `hi`: the state WREG_PUSH leaves (R152). -/
def State.storeWord (s : State) (r : WordReg) : State :=
  (s.setByte r.lo.toNat (highByte r.cache)).setByte r.hi.toNat (lowByte r.cache)

/-- The write to `hi` does not reach `lo`, which is another byte (R27). -/
theorem State.byteAt_storeWord_lo (s : State) {r : WordReg} (hne : r.lo ≠ r.hi) :
    (s.storeWord r).byteAt r.lo.toNat = highByte r.cache := by
  rw [State.storeWord, State.byteAt_setByte_ne _ _ (mt BitVec.eq_of_toNat_eq hne), State.byteAt_setByte_self]

theorem State.byteAt_storeWord_hi (s : State) (r : WordReg) :
    (s.storeWord r).byteAt r.hi.toNat = lowByte r.cache := State.byteAt_setByte_self _ _ _

theorem State.toNat_byteAt_storeWord_lo (s : State) {r : WordReg} (hne : r.lo ≠ r.hi) :
    ((s.storeWord r).byteAt r.lo.toNat).toNat = r.cache.toNat / 256 := by
  rw [State.byteAt_storeWord_lo s hne, toNat_highByte]

theorem State.toNat_byteAt_storeWord_hi (s : State) (r : WordReg) :
    ((s.storeWord r).byteAt r.hi.toNat).toNat = r.cache.toNat % 256 := by
  rw [State.byteAt_storeWord_hi, toNat_lowByte]

theorem State.byteAt_storeWord_ne (s : State) {r : WordReg} {a : Nat} (hlo : a ≠ r.lo.toNat) (hhi : a ≠ r.hi.toNat) :
    (s.storeWord r).byteAt a = s.byteAt a := by
  rw [State.storeWord, State.byteAt_setByte_ne _ _ hhi, State.byteAt_setByte_ne _ _ hlo]

theorem State.boundWord_storeWord (s : State) {r : WordReg} (hne : r.lo ≠ r.hi) :
    (s.storeWord r).boundWord r = r.cache := by
  rw [State.boundWord, State.byteAt_storeWord_lo s hne, State.byteAt_storeWord_hi, composeBytes_parts]

/-! ### The commands on an existing slot of a running block -/

section
variable {s : State} {slot : Byte} {low high : Half} (hf : Running s) (hn : slot.toNat < s.params.numWreg) (v : Half)
include hf hn

theorem exec_wregCfg_ok (h : low ≠ high) :
    exec (.wregCfg slot low high v) s =
      .next (okWith (s.putWreg slot { lo := low, hi := high, cache := v }) 0) :=
  (withSlot_ok hf hn).trans ((if_neg h).trans (respond_eq _ _))

theorem exec_wregCfg_equal (h : low = high) :
    exec (.wregCfg slot low high v) s = .next (faultWith s 0x05 low.toNat) :=
  (withSlot_ok hf hn).trans ((if_pos h).trans (raiseFault_eq _ _ _))

end

section
variable {s : State} {slot : Byte} {r : WordReg} (hf : Running s) (hn : slot.toNat < s.params.numWreg)
  (hr : s.wreg? slot = some r)
include hf hn hr

theorem exec_wregPull_ok (hlo : r.lo.toNat < s.params.cap) (hhi : r.hi.toNat < s.params.cap) :
    exec (.wregPull slot) s = .next (okWith (s.putWreg slot { r with cache := s.boundWord r }) 0) :=
  (withWreg_ok hf hn hr).trans ((memRead_ok hlo).trans ((memRead_ok hhi).trans (respond_eq _ _)))

theorem exec_wregPull_lo_oor (hlo : s.params.cap ≤ r.lo.toNat) :
    exec (.wregPull slot) s = .next (faultWith s 0x01 r.lo.toNat) :=
  (withWreg_ok hf hn hr).trans (memRead_fault hlo)

theorem exec_wregPull_hi_oor (hlo : r.lo.toNat < s.params.cap) (hhi : s.params.cap ≤ r.hi.toNat) :
    exec (.wregPull slot) s = .next (faultWith s 0x01 r.hi.toNat) :=
  (withWreg_ok hf hn hr).trans ((memRead_ok hlo).trans (memRead_fault hhi))

theorem exec_wregPush_ok (hlo : r.lo.toNat < s.params.cap) (hhi : r.hi.toNat < s.params.cap) :
    exec (.wregPush slot) s = .next (okWith (s.storeWord r) 0) :=
  (withWreg_ok hf hn hr).trans ((memWrite_ok hlo).trans
    ((memWrite_ok (s := s.setByte r.lo.toNat (highByte r.cache)) hhi).trans (respond_eq _ _)))

theorem exec_wregPush_lo_oor (hlo : s.params.cap ≤ r.lo.toNat) :
    exec (.wregPush slot) s = .next (faultWith s 0x01 r.lo.toNat) :=
  (withWreg_ok hf hn hr).trans (memWrite_fault hlo)

/-- The write to `lo` stays (R252). -/
theorem exec_wregPush_hi_oor (hlo : r.lo.toNat < s.params.cap) (hhi : s.params.cap ≤ r.hi.toNat) :
    exec (.wregPush slot) s = .next (faultWith (s.setByte r.lo.toNat (highByte r.cache)) 0x01 r.hi.toNat) :=
  (withWreg_ok hf hn hr).trans ((memWrite_ok hlo).trans (memWrite_fault hhi))

/-- A push, then a pull: the slot is as before, and its cache stands in memory. -/
theorem exec_wregPush_wregPull (hne : r.lo ≠ r.hi) (hlo : r.lo.toNat < s.params.cap) (hhi : r.hi.toNat < s.params.cap) :
    ∃ t u, exec (.wregPush slot) s = .next t ∧ exec (.wregPull slot) t = .next u ∧ u.wreg? slot = some r ∧
      (u.byteAt r.lo.toNat).toNat = r.cache.toNat / 256 ∧ (u.byteAt r.hi.toNat).toNat = r.cache.toNat % 256 := by
  have hpushed : (okWith (s.storeWord r) 0).boundWord r = r.cache := State.boundWord_storeWord s hne
  refine ⟨_, _, exec_wregPush_ok hf hn hr hlo hhi, exec_wregPull_ok hf hn hr hlo hhi, ?_,
    State.toNat_byteAt_storeWord_lo s hne, State.toNat_byteAt_storeWord_hi s r⟩
  rw [hpushed]
  exact State.wreg_putWreg_self _ slot r

theorem exec_wregGetBit_ok {i : Half} (hi : i.toNat < 16) :
    exec (.wregGetBit slot i) s =
      .next (okWith s (bitOf r.cache.toNat (posOf s.params.regBitOrder 16 i.toNat))) := by
  have hread : exec (.wregGetBit slot i) s = respond s (zextBit (regBit s r.cache i)) :=
    (withWreg_ok hf hn hr).trans (checkRegBit_ok hi)
  rw [hread, respond_eq, toNat_zextBit, toNat_regBit]

theorem exec_wregGetBit_oor {i : Half} (hi : 16 ≤ i.toNat) :
    exec (.wregGetBit slot i) s = .next (faultWith s 0x03 i.toNat) :=
  (withWreg_ok hf hn hr).trans (checkRegBit_fault hi)

theorem exec_wregSetBit_ok {i : Half} (on : Bool) (hi : i.toNat < 16) :
    exec (.wregSetBit slot i on) s =
      .next (okWith (s.putWreg slot { r with cache := withRegBit s r.cache i on }) 0) :=
  (withWreg_ok hf hn hr).trans ((checkRegBit_ok hi).trans (respond_eq _ _))

theorem exec_wregSetBit_oor {i : Half} (on : Bool) (hi : 16 ≤ i.toNat) :
    exec (.wregSetBit slot i on) s = .next (faultWith s 0x03 i.toNat) :=
  (withWreg_ok hf hn hr).trans (checkRegBit_fault hi)

theorem exec_wregGetComp_ok {i : Half} (hi : i.toNat < 2) :
    exec (.wregGetComp slot i) s = .next (okWith s (component r.cache i).toNat) := by
  have hread : exec (.wregGetComp slot i) s = respond s (zextByte (component r.cache i)) :=
    (withWreg_ok hf hn hr).trans (checkComponent_ok hi)
  rw [hread, respond_eq, toNat_zextByte]

theorem exec_wregGetComp_zero : exec (.wregGetComp slot 0) s = .next (okWith s (r.cache.toNat / 256)) := by
  rw [exec_wregGetComp_ok hf hn hr (by decide), toNat_component_zero]

theorem exec_wregGetComp_one : exec (.wregGetComp slot 1) s = .next (okWith s (r.cache.toNat % 256)) := by
  rw [exec_wregGetComp_ok hf hn hr (by decide), toNat_component_one]

theorem exec_wregGetComp_oor {i : Half} (hi : 2 ≤ i.toNat) :
    exec (.wregGetComp slot i) s = .next (faultWith s 0x04 i.toNat) :=
  (withWreg_ok hf hn hr).trans (checkComponent_fault hi)

theorem exec_wregSetComp_ok {i : Half} (x : Byte) (hi : i.toNat < 2) :
    exec (.wregSetComp slot i x) s =
      .next (okWith (s.putWreg slot { r with cache := withComponent r.cache i x }) 0) :=
  (withWreg_ok hf hn hr).trans ((checkComponent_ok hi).trans (respond_eq _ _))

theorem exec_wregSetComp_oor {i : Half} (x : Byte) (hi : 2 ≤ i.toNat) :
    exec (.wregSetComp slot i x) s = .next (faultWith s 0x04 i.toNat) :=
  (withWreg_ok hf hn hr).trans (checkComponent_fault hi)

theorem exec_wregValue : exec (.wregValue slot) s = .next (okWith s r.cache.toNat) :=
  (withWreg_ok hf hn hr).trans (respond_eq _ _)

theorem exec_wregSetValue (v : Half) :
    exec (.wregSetValue slot v) s = .next (okWith (s.putWreg slot { r with cache := v }) 0) :=
  (withWreg_ok hf hn hr).trans (respond_eq _ _)

end

/-! ### The statements -/

/-- Settles O57: the push stores the two bytes of the value just set, and the pull composes it of them again. -/
theorem wordRoundTrip : Obligations.WordRoundTrip := by
  intro s slot v r hf hn hr hne hlo hhi
  have hft : Running (okWith (s.putWreg slot { r with cache := v }) 0) := hf
  have hset : (okWith (s.putWreg slot { r with cache := v }) 0).wreg? slot = some { r with cache := v } :=
    State.wreg_putWreg_self s slot _
  obtain ⟨t, u, hpush, hpull, hu, hbytes⟩ := exec_wregPush_wregPull hft hn hset hne hlo hhi
  exact ⟨_, t, u, _, exec_wregSetValue hf hn hr v, hpush, hpull, hu, rfl, hbytes⟩

/-- Settles O58: the three answers are the cache, its quotient and its remainder by 256. -/
theorem componentsAndValueAgree : Obligations.ComponentsAndValueAgree := by
  intro s slot r hf hn hr
  have hv : r.cache.toNat < 65536 := r.cache.isLt
  exact ⟨_, _, _, exec_wregValue hf hn hr, exec_wregGetComp_zero hf hn hr, exec_wregGetComp_one hf hn hr,
    by omega, Nat.mod_lt _ (by decide), hv, by omega⟩

/-- Settles O40: past the common checks the one check is that the indices differ. -/
theorem wregCfgConstructsOrFaults : Obligations.WregCfgConstructsOrFaults := by
  intro s slot low high v hf hn
  exact ⟨encodeThenDecodeIsIdentity (.wregCfg slot low high v),
    fun h => ⟨_, exec_wregCfg_ok hf hn v h, updatedAt_put _ _ _⟩, exec_wregCfg_equal hf hn v⟩

/-- Settles O41: the pull puts the word it composes in the cache, or the first of its two reads that fails its check
ends it. -/
theorem wregPullComposesOrFaults : Obligations.WregPullComposesOrFaults := by
  intro s slot r hf hn hr
  exact ⟨encodeThenDecodeIsIdentity (.wregPull slot),
    fun hlo hhi => ⟨_, _, exec_wregPull_ok hf hn hr hlo hhi, updatedAt_put _ _ _, toNat_composeBytes _ _⟩,
    exec_wregPull_lo_oor hf hn hr, exec_wregPull_hi_oor hf hn hr⟩

/-- Settles O42: the push stores the word's two bytes, or the first of its two writes that fails its check ends it,
the second one after the first has been made. -/
theorem wregPushDecomposesOrFaults : Obligations.WregPushDecomposesOrFaults := by
  intro s slot r hf hn hr hne
  refine ⟨encodeThenDecodeIsIdentity (.wregPush slot), fun hlo hhi => ?_, exec_wregPush_lo_oor hf hn hr,
    fun hlo hhi => ⟨_, _, exec_wregPush_hi_oor hf hn hr hlo hhi, writtenAt_write s _ _, toNat_highByte r.cache⟩⟩
  exact ⟨_, exec_wregPush_ok hf hn hr hlo hhi, State.toNat_byteAt_storeWord_lo s hne,
    State.toNat_byteAt_storeWord_hi s r, fun a => State.byteAt_storeWord_ne s⟩

/-- Settles O43: the bit read is the one REG_BIT_ORDER names in the cache, or the index fails its check. -/
theorem wregGetBitReadsCacheOrFaults : Obligations.WregGetBitReadsCacheOrFaults := by
  intro s slot i r hf hn hr
  exact ⟨encodeThenDecodeIsIdentity (.wregGetBit slot i), exec_wregGetBit_ok hf hn hr, exec_wregGetBit_oor hf hn hr⟩

/-- Settles O44: the new cache is the old one with the named bit replaced, or the index fails its check. -/
theorem wregSetBitEditsCacheOrFaults : Obligations.WregSetBitEditsCacheOrFaults := by
  intro s slot i on r hf hn hr
  refine ⟨encodeThenDecodeIsIdentity (.wregSetBit slot i on), fun hi => ?_, exec_wregSetBit_oor hf hn hr on⟩
  refine ⟨_, _, exec_wregSetBit_ok hf hn hr on hi, updatedAt_put _ _ _, ?_, fun q _ hq => ?_⟩
  · rw [bitOf_withRegBit s r.cache on hi, if_pos rfl]
  · rw [bitOf_withRegBit s r.cache on hi, if_neg hq]

/-- Settles O45: the two components are the bytes of the cache, and any other index fails its check. -/
theorem wregGetCompReadsByteOrFaults : Obligations.WregGetCompReadsByteOrFaults := by
  intro s slot i r hf hn hr
  exact ⟨encodeThenDecodeIsIdentity (.wregGetComp slot i), fun h => h ▸ exec_wregGetComp_zero hf hn hr,
    fun h => h ▸ exec_wregGetComp_one hf hn hr, exec_wregGetComp_oor hf hn hr⟩

/-- Settles O46: the new cache is the old one with the named byte replaced, or the index fails its check. -/
theorem wregSetCompWritesByteOrFaults : Obligations.WregSetCompWritesByteOrFaults := by
  intro s slot i x r hf hn hr
  refine ⟨encodeThenDecodeIsIdentity (.wregSetComp slot i x), fun hi => ?_, exec_wregSetComp_oor hf hn hr x⟩
  exact ⟨_, _, exec_wregSetComp_ok hf hn hr x hi, updatedAt_put _ _ _,
    fun h => h ▸ toNat_withComponent_zero r.cache x, fun h => h ▸ toNat_withComponent_one r.cache x⟩

/-- Settles O47: past the common checks neither command has a check, and neither goes to memory. -/
theorem wregValueCommandsUseCacheOnly : Obligations.WregValueCommandsUseCacheOnly := by
  intro s slot v r hf hn hr
  exact ⟨⟨encodeThenDecodeIsIdentity (.wregValue slot), exec_wregValue hf hn hr⟩,
    encodeThenDecodeIsIdentity (.wregSetValue slot v), _, exec_wregSetValue hf hn hr v, updatedAt_put _ _ _⟩

end Sys2Proof.Machine

/-! ## The timer

First sampling and ticking in the terms of the claims, and the state that a tick leaves; then one equation per outcome
of a timer command on an existing slot of a running block, which the statements are assembled from. -/

namespace Sys2Proof.Machine

open Sys2Proof.Safety

/-! ### The fields after a completed command -/

section
variable (s : State) (d : Nat)

@[simp] theorem okWith_params : (okWith s d).params = s.params := rfl

@[simp] theorem okWith_latch : (okWith s d).latch = s.latch := rfl

@[simp] theorem okWith_events : (okWith s d).events = s.events := rfl

@[simp] theorem okWith_nowIn : (okWith s d).nowIn = s.nowIn := rfl

@[simp] theorem okWith_responses :
    (okWith s d).responses = s.responses ++ [{ word := rspOf 0 0 d, dump := [] }] := rfl

end

/-! ### Sampling after another update (R180)

A sample is taken of the time input and T_LAST alone, so it commutes with an update of the slots or the events. -/

theorem Table.put_put_self {α : Type} (t : Table α) (k : Nat) (x y : α) :
    Table.put (Table.put t k x) k y = Table.put t k y := by
  induction t with
  | nil => simp [Table.put]
  | cons e t ih =>
    obtain ⟨a, z⟩ := e
    rcases lt_trichotomy k a with h | rfl | h
    · simp [Table.put, h]
    · simp [Table.put]
    · simp [Table.put, h.not_gt, h.ne', ih]

theorem State.putTimer_putTimer_self (s : State) (slot : Byte) (r r' : Timer) :
    (s.putTimer slot r).putTimer slot r' = s.putTimer slot r' :=
  congrArg (fun tab => { s with timers := tab }) (Table.put_put_self s.timers slot.toNat r r')

theorem State.afterSample_putTimer (s : State) (slot : Byte) (r : Timer) :
    (s.putTimer slot r).afterSample = s.afterSample.putTimer slot r := by
  simp only [State.afterSample, State.putTimer_nowIn]
  split <;> rfl

theorem State.afterSample_emit (s : State) (e : Tick) : (s.emit e).afterSample = s.afterSample.emit e := by
  simp only [State.afterSample, State.emit_nowIn]
  split <;> rfl

theorem State.nextSample_of_nowIn {s : State} {n : Time} {rest : List Time} (h : s.nowIn = n :: rest) :
    s.nextSample = n := by
  rw [State.nextSample, h]

/-- A baseline that is not above T_LAST is not above the next sample either (R181). -/
theorem le_nextSample {s : State} {m b : Time} (ht : TimeInputOk s) (hm : s.tLast = some m) (hb : b ≤ m) :
    b ≤ s.nextSample := BitVec.le_trans hb (sample_allowed ht m hm)

/-! ### The tick condition (R181) -/

theorem tickDue_iff {r : Timer} {tc : Time} (h : r.lastTick ≤ tc) :
    tickDue (tc - r.lastTick) r.freq = true ↔ TickDue r tc := by
  rw [tickDue, decide_eq_true_iff, BitVec.toNat_sub_of_le h, TickDue]

/-- The elapsed time as a word is the difference on naturals, since the baseline is an earlier sample. -/
theorem elapsed_eq {b tc : Time} (h : b ≤ tc) : tc - b = BitVec.ofNat 64 (tc.toNat - b.toNat) := by
  rw [← BitVec.toNat_sub_of_le h, BitVec.ofNat_toNat, BitVec.setWidth_eq]

theorem toNat_sub_one {v : Byte} (hv : v ≠ 0) : (v - 1).toNat = v.toNat - 1 := by
  bv_omega

/-! ### The state a tick leaves (R183) -/

/-- The timer with the count it pulls from memory. -/
def State.pulledTimer (s : State) (r : Timer) : Timer := { r with cache := s.byteAt r.idx.toNat }

/-- The timer after a tick: the pulled count less one, and the second sample as its baseline. -/
def State.tickedTimer (s : State) (r : Timer) : Timer :=
  { r with cache := s.byteAt r.idx.toNat - 1, lastTick := s.afterSample.nextSample }

/-- The TICK record: the pulled count, and the time from the baseline to the check sample. -/
def State.tickRecord (s : State) (slot : Byte) (r : Timer) : Tick :=
  { slot := slot, value := s.byteAt r.idx.toNat, elapsed := s.nextSample - r.lastTick }

/-- `s` after a TIMER_UPDATE that ticks, but for its response: two samples taken, the TICK emitted, the count one
less in the cache and in memory. -/
def State.ticked (s : State) (slot : Byte) (r : Timer) : State :=
  ((s.afterSample.afterSample.emit (s.tickRecord slot r)).putTimer slot (s.tickedTimer r)).setByte r.idx.toNat
    (s.byteAt r.idx.toNat - 1)

section
variable (s : State) (slot : Byte) (r : Timer)

@[simp] theorem State.ticked_params : (s.ticked slot r).params = s.params := by simp [State.ticked]

@[simp] theorem State.ticked_latch : (s.ticked slot r).latch = s.latch := by simp [State.ticked]

@[simp] theorem State.ticked_responses : (s.ticked slot r).responses = s.responses := by simp [State.ticked]

@[simp] theorem State.ticked_events : (s.ticked slot r).events = s.events ++ [s.tickRecord slot r] := by
  simp [State.ticked]

@[simp] theorem State.ticked_nowIn : (s.ticked slot r).nowIn = s.nowIn.tail.tail := by simp [State.ticked]

@[simp] theorem State.ticked_tLast : (s.ticked slot r).tLast = some (s.tickedTimer r).lastTick := by
  simp [State.ticked, State.tickedTimer]

@[simp] theorem State.timerAt_ticked : (s.ticked slot r).timer? slot = some (s.tickedTimer r) := by
  simp [State.ticked]

@[simp] theorem State.byteAt_ticked : (s.ticked slot r).byteAt r.idx.toNat = s.byteAt r.idx.toNat - 1 := by
  simp [State.ticked]

end

theorem timeInputOk_ticked {s : State} (slot : Byte) (r : Timer) (h : TimeInputOk s) :
    TimeInputOk (s.ticked slot r) := timeInputOk_afterSample (timeInputOk_afterSample h)

/-- The state after a tick, as the claims write it: the second sample's state with the slot, the byte and the TICK. -/
theorem State.ticked_eq {s : State} {r : Timer} (slot : Byte) (h : r.lastTick ≤ s.nextSample) :
    s.ticked slot r =
      { s.afterSample.afterSample with
        timers := Table.put s.timers slot.toNat (s.tickedTimer r)
        mem := Memory.write s.mem r.idx.toNat (s.byteAt r.idx.toNat - 1)
        events := s.events ++
          [{ slot := slot, value := s.byteAt r.idx.toNat,
             elapsed := BitVec.ofNat 64 (s.nextSample.toNat - r.lastTick.toNat) }] } := by
  simp [State.ticked, State.tickRecord, State.setByte, State.putTimer, State.emit, elapsed_eq h]

/-- Step 4 of TIMER_UPDATE, in the state that the pull and the check sample have led to. -/
theorem timerTick_ok {s : State} {slot : Byte} {r : Timer} (hi : r.idx.toNat < s.params.cap)
    (hm : s.nextSample ≤ s.afterSample.nextSample) :
    timerTick slot r (s.byteAt r.idx.toNat) (s.nextSample - r.lastTick)
      (s.afterSample.putTimer slot (s.pulledTimer r)) = .next (okWith (s.ticked slot r) 3) := by
  have hfloor : ∀ m, s.afterSample.tLast = some m → m ≤ s.afterSample.nextSample := fun m hlast =>
    Option.some.inj ((State.afterSample_tLast s).symm.trans hlast) ▸ hm
  have hstate : ((s.afterSample.putTimer slot (s.pulledTimer r)).emit (s.tickRecord slot r)).afterSample.putTimer slot
      (s.tickedTimer r) =
      (s.afterSample.afterSample.emit (s.tickRecord slot r)).putTimer slot (s.tickedTimer r) := by
    rw [State.afterSample_emit, State.afterSample_putTimer]
    exact State.putTimer_putTimer_self (s.afterSample.afterSample.emit (s.tickRecord slot r)) slot _ _
  refine (sampleNow_ok (s := (s.afterSample.putTimer slot (s.pulledTimer r)).emit (s.tickRecord slot r)) hfloor).trans
    ((memWrite_ok (by simpa using hi)).trans ((respond_eq _ _).trans ?_))
  exact congrArg (fun u => Host.Outcome.next (okWith (u.setByte r.idx.toNat (s.byteAt r.idx.toNat - 1)) 3)) hstate

/-! ### The commands on an existing slot of a running block -/

section
variable {s : State} {slot : Byte} (hf : Running s) (hn : slot.toNat < s.params.numTimer) (index : Half) {freq : Half}
  (count : Byte)
include hf hn

theorem exec_timerCfg_ok (h : freq ≠ 0) (ht : TimeInputOk s) :
    exec (.timerCfg slot index freq count) s = .next (okWith (s.afterSample.putTimer slot
      { idx := index, cache := count, freq := freq, lastTick := s.nextSample }) 0) :=
  (withSlot_ok hf hn).trans ((if_neg h).trans ((sampleNow_ok (sample_allowed ht)).trans (respond_eq _ _)))

theorem exec_timerCfg_freqZero (h : freq = 0) :
    exec (.timerCfg slot index freq count) s = .next (faultWith s 0x13 0) :=
  (withSlot_ok hf hn).trans ((if_pos h).trans (raiseFault_eq _ _ _))

end

section
variable {s : State} {slot : Byte} {r : Timer} (hf : Running s) (hn : slot.toNat < s.params.numTimer)
  (hr : s.timer? slot = some r)
include hf hn hr

theorem exec_timerValue : exec (.timerValue slot) s = .next (okWith s r.cache.toNat) := by
  have hread : exec (.timerValue slot) s = respond s (zextByte r.cache) := withTimer_ok hf hn hr
  rw [hread, respond_eq, toNat_zextByte]

theorem exec_timerUpdate_oor (hi : s.params.cap ≤ r.idx.toNat) :
    exec (.timerUpdate slot) s = .next (faultWith s 0x01 r.idx.toNat) :=
  (withTimer_ok hf hn hr).trans (memRead_fault hi)

theorem exec_timerUpdate_zero (hi : r.idx.toNat < s.params.cap) (hv : s.byteAt r.idx.toNat = 0) :
    exec (.timerUpdate slot) s = .next (okWith (s.putTimer slot (s.pulledTimer r)) 0) :=
  (withTimer_ok hf hn hr).trans ((memRead_ok hi).trans ((if_pos hv).trans (respond_eq _ _)))

/-- Past the pull of a nonzero count the check sample decides. -/
theorem exec_timerUpdate_pulled (hi : r.idx.toNat < s.params.cap) (hv : s.byteAt r.idx.toNat ≠ 0)
    (hm : ∀ m, s.tLast = some m → m ≤ s.nextSample) :
    exec (.timerUpdate slot) s =
      if tickDue (s.nextSample - r.lastTick) r.freq then
        timerTick slot r (s.byteAt r.idx.toNat) (s.nextSample - r.lastTick)
          (s.afterSample.putTimer slot (s.pulledTimer r))
      else .next (okWith (s.afterSample.putTimer slot (s.pulledTimer r)) 1) := by
  refine (withTimer_ok hf hn hr).trans ((memRead_ok hi).trans ((if_neg hv).trans
    ((sampleNow_ok (s := s.putTimer slot (s.pulledTimer r)) hm).trans ?_)))
  rw [State.afterSample_putTimer, respond_eq]
  rfl

theorem exec_timerUpdate_notDue (hi : r.idx.toNat < s.params.cap) (hv : s.byteAt r.idx.toNat ≠ 0)
    (ht : TimeInputOk s) (hb : r.lastTick ≤ s.nextSample) (hdue : ¬TickDue r s.nextSample) :
    exec (.timerUpdate slot) s = .next (okWith (s.afterSample.putTimer slot (s.pulledTimer r)) 1) := by
  rw [exec_timerUpdate_pulled hf hn hr hi hv (sample_allowed ht), if_neg (mt (tickDue_iff hb).1 hdue)]

theorem exec_timerUpdate_due (hi : r.idx.toNat < s.params.cap) (hv : s.byteAt r.idx.toNat ≠ 0)
    (ht : TimeInputOk s) (hb : r.lastTick ≤ s.nextSample) (hdue : TickDue r s.nextSample) :
    exec (.timerUpdate slot) s = .next (okWith (s.ticked slot r) 3) := by
  have hsecond := sample_allowed (timeInputOk_afterSample ht) s.nextSample (State.afterSample_tLast s)
  rw [exec_timerUpdate_pulled hf hn hr hi hv (sample_allowed ht), if_pos ((tickDue_iff hb).2 hdue),
    timerTick_ok hi hsecond]

end

/-- Everything a TIMER_UPDATE of a constructed slot can do to memory and the event output: nothing, or what a tick
does. -/
theorem exec_timerUpdate_next {s t : State} {slot : Byte} {r : Timer} (h : exec (.timerUpdate slot) s = .next t)
    (hr : s.timer? slot = some r) :
    (t.events = s.events ∧ t.mem = s.mem) ∨
    (s.byteAt r.idx.toNat ≠ 0 ∧ t = okWith (s.ticked slot r) 3) := by
  rcases slotCommand_next h with ⟨_, rfl⟩ | ⟨_, _, rfl⟩ | ⟨_, _, _, rfl⟩ | ⟨r', hf, hn, hr', hk⟩
  · exact .inl ⟨rfl, rfl⟩
  · exact .inl ⟨rfl, rfl⟩
  · exact .inl ⟨rfl, rfl⟩
  obtain rfl : r' = r := Option.some.inj (hr'.symm.trans hr)
  rcases memRead_next hk with ⟨_, rfl⟩ | ⟨hi, hk⟩
  · exact .inl ⟨rfl, rfl⟩
  by_cases hv : s.byteAt r'.idx.toNat = 0
  · rw [exec_timerUpdate_zero hf hn hr hi hv] at h
    cases h
    exact .inl ⟨rfl, rfl⟩
  · rw [if_neg hv] at hk
    rw [exec_timerUpdate_pulled hf hn hr hi hv (sampleNow_next hk).1] at h
    split_ifs at h
    · have hsecond := (sampleNow_next h).1 s.nextSample (State.afterSample_tLast s)
      rw [timerTick_ok hi hsecond] at h
      cases h
      exact .inr ⟨hv, rfl⟩
    · cases h
      exact .inl ⟨State.afterSample_events s, State.afterSample_mem s⟩

/-! ### Counting down -/

/-- What a tick needs, its being due aside, and keeps: a running block, a constructed slot bound to an existing byte
that holds `n`, a time source that keeps its duty, and a baseline not above T_LAST. -/
structure Counting (slot : Byte) (n : Nat) (s : State) (r : Timer) : Prop where
  running : Running s
  slot_lt : slot.toNat < s.params.numTimer
  held : s.timer? slot = some r
  idx_lt : r.idx.toNat < s.params.cap
  count : (s.byteAt r.idx.toNat).toNat = n
  time : TimeInputOk s
  baseline : ∃ m, s.tLast = some m ∧ r.lastTick ≤ m

section
variable {slot : Byte} {n : Nat} {s : State} {r : Timer}

theorem Counting.tickRecord_eq (h : Counting slot n s r) :
    s.tickRecord slot r = { slot := slot, value := BitVec.ofNat 8 n, elapsed := s.nextSample - r.lastTick } := by
  rw [State.tickRecord, ← h.count, BitVec.ofNat_toNat, BitVec.setWidth_eq]

theorem Counting.byte_ne_zero (h : Counting slot (n + 1) s r) : s.byteAt r.idx.toNat ≠ 0 := by
  intro hv
  have := h.count
  simp [hv] at this

/-- A due TIMER_UPDATE takes one from the count, and the block stays ready for the next one. -/
theorem Counting.exec_due (h : Counting slot (n + 1) s r) (hdue : TickDue r s.nextSample) :
    exec (.timerUpdate slot) s = .next (okWith (s.ticked slot r) 3) ∧
      Counting slot n (okWith (s.ticked slot r) 3) (s.tickedTimer r) := by
  obtain ⟨m, hm, hb⟩ := h.baseline
  refine ⟨exec_timerUpdate_due h.running h.slot_lt h.held h.idx_lt h.byte_ne_zero h.time
    (le_nextSample h.time hm hb) hdue, ?_⟩
  have hbyte : (okWith (s.ticked slot r) 3).byteAt r.idx.toNat = s.byteAt r.idx.toNat - 1 :=
    State.byteAt_ticked s slot r
  exact {
    running := by simpa [Running] using h.running
    slot_lt := by simpa using h.slot_lt
    held := State.timerAt_ticked s slot r
    idx_lt := by simpa [State.tickedTimer] using h.idx_lt
    count := by rw [State.tickedTimer, hbyte, toNat_sub_one h.byte_ne_zero, h.count, Nat.add_sub_cancel]
    time := timeInputOk_ticked slot r h.time
    baseline := ⟨_, State.ticked_tLast s slot r, BitVec.le_refl _⟩ }

/-- A TIMER_UPDATE that finds 0 answers 0, and TIMER_VALUE then answers 0. -/
theorem Counting.exec_stop (h : Counting slot 0 s r) :
    ∃ u, exec (.timerUpdate slot) s = .next (okWith u 0) ∧ exec (.timerValue slot) (okWith u 0) =
      .next (okWith (okWith u 0) 0) ∧ u.responses = s.responses ∧ u.events = s.events := by
  have hv : s.byteAt r.idx.toNat = 0 := BitVec.eq_of_toNat_eq h.count
  have hvalue := exec_timerValue (s := okWith (s.putTimer slot (s.pulledTimer r)) 0) h.running h.slot_lt
    (State.timer_putTimer_self s slot (s.pulledTimer r))
  refine ⟨_, exec_timerUpdate_zero h.running h.slot_lt h.held h.idx_lt hv, hvalue.trans ?_, rfl, rfl⟩
  rw [State.pulledTimer, h.count]

end

/-! ### The statements -/

/-- Settles O50: the check sample is the next one, and the tick's state is the second sample's with the slot, the byte
and the TICK. -/
theorem timerUpdateTicksWhenDue : Obligations.TimerUpdateTicksWhenDue := by
  intro s slot r m hf hn hr hi hv ht hm hb
  have hbase := le_nextSample ht hm hb
  refine ⟨_, _, sampled_nextSample ht, fun hdue => ?_, fun hdue => ?_⟩
  · refine ⟨_, exec_timerUpdate_notDue hf hn hr hi hv ht hbase hdue, ?_⟩
    rw [State.afterSample_timers]
    exact updatedAt_put _ _ _
  · refine ⟨_, _, _, _, _, sampled_nextSample (timeInputOk_afterSample ht), ?_, updatedAt_put _ _ (s.tickedTimer r),
      writtenAt_write s _ _, toNat_sub_one hv⟩
    rw [exec_timerUpdate_due hf hn hr hi hv ht hbase hdue, State.ticked_eq slot hbase]

/-- Settles O52: a command that does anything to memory or the events has ticked. -/
theorem oneTickPerDecrement : Obligations.OneTickPerDecrement := by
  intro s t slot r h hr
  rcases exec_timerUpdate_next h hr with ⟨hevents, hmem⟩ | ⟨hv, rfl⟩
  · exact .inl ⟨hevents, fun a => congrArg (Memory.read · a) hmem⟩
  · refine .inr ⟨_, State.ticked_events s slot r, by bv_omega, ?_⟩
    exact (congrArg BitVec.toNat (State.byteAt_ticked s slot r)).trans (toNat_sub_one hv)

/-- Settles O53: two ticks take the count from 2 to 0, where the third update stops. -/
theorem countOfTwoTicksTwiceThenStops : Obligations.CountOfTwoTicksTwiceThenStops := by
  intro s slot r m tc tr tc' tr' rest hf hn hr hi hcount ht hm hb hnow hdue hdue'
  have h₂ : Counting slot 2 s r := ⟨hf, hn, hr, hi, hcount, ht, m, hm, hb⟩
  have hcheck₂ : s.nextSample = tc := State.nextSample_of_nowIn hnow
  obtain ⟨hexec₂, h₁⟩ := h₂.exec_due (by rwa [hcheck₂])
  have hbase : (s.tickedTimer r).lastTick = tr :=
    State.nextSample_of_nowIn (rest := tc' :: tr' :: rest) (by simp [hnow])
  have hcheck₁ : (okWith (s.ticked slot r) 3).nextSample = tc' :=
    State.nextSample_of_nowIn (rest := tr' :: rest) (by simp [hnow])
  obtain ⟨hexec₁, h₀⟩ := h₁.exec_due (by rw [hcheck₁, TickDue, hbase]; exact hdue')
  obtain ⟨u, hexec₀, hvalue, hresponses, hevents⟩ := h₀.exec_stop
  refine ⟨_, _, _, _, tc - r.lastTick, tc' - tr, hexec₂, hexec₁, hexec₀, hvalue, by simp [hresponses], ?_⟩
  simp [hevents, h₂.tickRecord_eq, h₁.tickRecord_eq, hcheck₂, hcheck₁, hbase]

/-- Settles O48: past the common checks the one check is that of the frequency, and the sample is taken after it. -/
theorem timerCfgConstructsOrFaults : Obligations.TimerCfgConstructsOrFaults := by
  intro s slot index freq count hf hn
  refine ⟨encodeThenDecodeIsIdentity (.timerCfg slot index freq count), exec_timerCfg_freqZero hf hn index count,
    fun h ht => ⟨_, _, _, sampled_nextSample ht, exec_timerCfg_ok hf hn index count h ht, ?_⟩⟩
  rw [State.afterSample_timers]
  exact updatedAt_put _ _ _

/-- Settles O49: the pull of 0 puts 0 in the cache and the command ends there, or the check of its read fails. -/
theorem timerUpdateStopsAtZeroOrFaults : Obligations.TimerUpdateStopsAtZeroOrFaults := by
  intro s slot r hf hn hr
  refine ⟨encodeThenDecodeIsIdentity (.timerUpdate slot), fun hi hv => ?_, exec_timerUpdate_oor hf hn hr⟩
  refine ⟨_, exec_timerUpdate_zero hf hn hr hi hv, ?_⟩
  rw [State.pulledTimer, hv]
  exact updatedAt_put _ _ _

/-- Settles O51: past the common checks TIMER_VALUE has no check, and goes neither to memory nor to the time source. -/
theorem timerValueReadsCacheOnly : Obligations.TimerValueReadsCacheOnly := by
  intro s slot r hf hn hr
  exact ⟨encodeThenDecodeIsIdentity (.timerValue slot), exec_timerValue hf hn hr⟩

end Sys2Proof.Machine

/-! ## STATUS

The answer in the terms of the claims. STATUS has no common check, so the equation has no hypothesis that the block
is running. -/

namespace Sys2Proof.Machine

open Sys2Proof.Safety

theorem exec_status (s : State) :
    exec .status s = .next (answered s 0 s.latch.cause.toNat s.latch.info.toNat []) :=
  congrArg Host.Outcome.next (answer_statusResponse s s.latch)

/-- Settles O33: every word with the OP of STATUS is STATUS, and STATUS answers the latch without a check. -/
theorem statusAnswersTheLatch : Obligations.StatusAnswersTheLatch := by
  intro s slot a b c
  have hop : opField (commandWord 0x01 slot a b c) = 0x01 := opField_commandWord _ slot a b c
  exact ⟨statusIgnoresItsOtherBits _ hop, exec_status s⟩

end Sys2Proof.Machine

/-! ## The common checks of R214

The halt check and the slot range check, read off each command's meaning once: a statement about a check that fails
needs to know that the check comes first, and nothing of what would have followed it. -/

namespace Sys2Proof.Machine

open Sys2Proof.Safety

/-- Checks 2 and 5 come first in every command that names a slot. -/
theorem exec_eq_withSlot {i : Instr} {kind : SlotKind} {slot : Byte} (s : State) (hs : slotOf i = some (kind, slot)) :
    ∃ k, exec i s = withSlot s (slotCount s kind) slot k := by
  cases i with
  | status | memGetByte | memSetByte | memGetBit | memSetBit | memByteAtStart | memBitAtStart | memStartOffset
  | memDump => cases hs
  | bregCfg | bregPull | bregPush | bregGetBit | bregSetBit | bregValue | bregSetValue
  | wregCfg | wregPull | wregPush | wregGetBit | wregSetBit | wregGetComp | wregSetComp | wregValue | wregSetValue
  | timerCfg | timerUpdate | timerValue =>
    cases hs
    exact ⟨_, rfl⟩

/-- Check 2 comes first in every command but STATUS. -/
theorem exec_eq_whenRunning {i : Instr} (s : State) (hi : i ≠ .status) : ∃ k, exec i s = whenRunning s k := by
  cases i with
  | status => exact absurd rfl hi
  | memGetByte | memSetByte | memGetBit | memSetBit | memByteAtStart | memBitAtStart | memStartOffset | memDump
  | bregCfg | bregPull | bregPush | bregGetBit | bregSetBit | bregValue | bregSetValue
  | wregCfg | wregPull | wregPush | wregGetBit | wregSetBit | wregGetComp | wregSetComp | wregValue | wregSetValue
  | timerCfg | timerUpdate | timerValue => exact ⟨_, rfl⟩

/-- Settles O25: check 5 comes first in a running block, and it fails. -/
theorem slotOutOfRangeRaisesSlotRange : Obligations.SlotOutOfRangeRaisesSlotRange := by
  intro i s kind slot hf hs hn
  obtain ⟨k, hk⟩ := exec_eq_withSlot s hs
  rw [hk, withSlot_range hf hn, raiseFault_eq, toNat_zextByte]
  rfl

/-! ### The halted block (R213) -/

theorem opField_of_decode_status {w : Command} (h : decode w = .ok .status) : opField w = 0x01 :=
  (decode_mnemonic_iff.1 ⟨_, h, rfl⟩).1

/-- The halt check comes before anything else a word other than STATUS could do, be it a command or not. -/
theorem runCommand_halted {s : State} {w : Command} (hf : s.latch.faulted = true) (hop : opField w ≠ 0x01) :
    runCommand w s = ignoreHalted s := by
  cases hd : decode w with
  | ok i =>
    have hi : i ≠ .status := fun h => hop (opField_of_decode_status (h ▸ hd))
    obtain ⟨k, hk⟩ := exec_eq_whenRunning s hi
    rw [runCommand_of_decode s hd, hk, whenRunning_halted hf]
  | error e =>
    simp only [runCommand, hd]
    rw [execIllegal, whenRunning_halted hf]

/-- Settles O16: a word with another OP fails the halt check, and every word with the OP of STATUS is STATUS. -/
theorem haltedBlockOnlyAnswers : Obligations.HaltedBlockOnlyAnswers := by
  intro s w hf
  rw [step_withCommand]
  refine ⟨fun hop => ?_, fun hop => ?_⟩
  · rw [runCommand_halted hf hop, ignoreHalted, answer_faultedResponse]
  · rw [runCommand_of_decode s (statusIgnoresItsOtherBits w hop), exec_status]

end Sys2Proof.Machine

/-! ## Reset (R240, R241, R243)

What a step on a reset input answers, what the memory of the reset state reads, and what a command word leaves for a
reset alone to change. -/

namespace Sys2Proof.Machine

open Sys2Proof.Safety

section
variable {s t : State} {c : Configuration} {rest : List HostInput}

theorem step_of_legal_reset (h : s.inputs = .reset c :: rest) (hc : Legal c) :
    step s = .next (s.afterInput.resetTo c) := by
  simp [step, takeInput, h, takeReset, (legalConfiguration_iff c).2 hc]

theorem step_of_illegal_reset (h : s.inputs = .reset c :: rest) (hc : ¬ Legal c) :
    step s = .refused .illegalConfiguration := by
  simp [step, takeInput, h, takeReset, (legalConfiguration_iff c).not.2 hc]

theorem getD_initialBytes (c : Configuration) (i : Nat) : (initialBytes c).getD i 0 = initialByte c i := by
  unfold initialBytes initialByte
  cases c.init with
  | some bytes => rfl
  | none => exact List.getElem?_getD_replicate_default_eq 0 c.params.cap i

/-- The reset state reads INIT, and zero where there is none (R39, D29). -/
theorem State.byteAt_resetTo (s : State) (c : Configuration) (i : Nat) :
    (s.resetTo c).byteAt i = initialByte c i :=
  (Memory.read_ofBytes 0 i _ (Nat.zero_le i)).trans (getD_initialBytes c i)

/-- A word that is a command keeps the parameters and START by the frame of its meaning, any other word by its ending. -/
theorem runCommand_params_start {w : Command} (h : runCommand w s = .next t) :
    t.params = s.params ∧ t.start = s.start := by
  cases hd : decode w with
  | ok i =>
    rw [runCommand_of_decode s hd] at h
    obtain ⟨hparams, hstart, _⟩ := frameOfTheRestOfTheState i s t h
    exact ⟨hparams, hstart⟩
  | error e =>
    simp only [runCommand, hd] at h
    rcases execIllegal_next h with ⟨_, rfl⟩ | ⟨_, rfl⟩
    · exact ⟨rfl, rfl⟩
    · exact ⟨rfl, rfl⟩

/-- The one ending that writes the latch is a fault, and only a running block raises one (R212, R213). -/
theorem runCommand_latch {w : Command} (h : runCommand w s = .next t) (hf : s.latch.faulted = true) :
    t.latch = s.latch := by
  obtain ⟨u, _, hl, hend⟩ := runCommand_next h
  cases hend with
  | ok r _ _ => exact hl
  | fault c info hrun => exact absurd (hf.symm.trans hrun) Bool.noConfusion
  | halted _ => rfl

end

/-- Settles O11: the step answers `resetTo`, whose fields are those of R39, or the refusal. -/
theorem resetGivesResetValues : Obligations.ResetGivesResetValues := fun s c _ h =>
  ⟨fun hc => ⟨s.afterInput.resetTo c, step_of_legal_reset h hc, rfl, rfl,
      fun i _ => State.byteAt_resetTo _ c i, fun _ => ⟨rfl, rfl, rfl⟩, rfl, rfl, rfl⟩,
    step_of_illegal_reset h⟩

/-- Settles O17: with no reset on the port a step is nothing or a command word, and neither touches what only a reset
may change. -/
theorem onlyResetClearsLatchAndParameters : Obligations.OnlyResetClearsLatchAndParameters := by
  refine ⟨fun s t h hno => ?_, fun s c _ h hc => ⟨_, step_of_legal_reset h hc, rfl, rfl, rfl⟩⟩
  rcases step_next h with ⟨_, rfl⟩ | ⟨w, _, _, hrun⟩ | ⟨c, rest, hin, _⟩
  · exact ⟨rfl, rfl, fun _ => rfl⟩
  · obtain ⟨hparams, hstart⟩ := runCommand_params_start hrun
    have hlatch := runCommand_latch hrun
    exact ⟨hparams, hstart, hlatch⟩
  · exact absurd hin (hno c rest)

/-- R7 asks START to be below CAP, and 0x200 is 512. -/
theorem not_legal_documentedDefault {c : Configuration} (hcap : c.params.cap = 512) (hstart : c.start = 0x200) :
    ¬ Legal c := by
  rintro ⟨_, _, hlt, _⟩
  rw [hcap, hstart] at hlt
  exact absurd hlt (by decide)

/-- Settles O12: the documented default fails R7, and without INIT every initial byte is zero. -/
theorem documentedDefaultIsRefused : Obligations.DocumentedDefaultIsRefused := by
  refine ⟨fun s c _ h hcap hstart => step_of_illegal_reset h (not_legal_documentedDefault hcap hstart),
    fun s c _ h hc hinit => ⟨_, step_of_legal_reset h hc, fun i _ => ?_⟩⟩
  rw [State.byteAt_resetTo, initialByte, hinit]

end Sys2Proof.Machine

/-! ## The choices of the log: no input, and a time source that goes back

Log entry 9: an idle port. Log entry 4: the one way a sample is not taken, and each place where a timer command meets
it. -/

namespace Sys2Proof.Machine

open Sys2Proof.Safety

theorem step_idle {s : State} (h : s.inputs = []) : step s = .next s := by
  simp [step, takeInput, h]

/-- Settles O10: a step with an idle port answers the state it is in. -/
theorem nothingHappensWithoutInput : Obligations.NothingHappensWithoutInput := fun _ => step_idle

/-- A sample below T_LAST is not taken, whatever would have followed it (R231). -/
theorem sampleNow_goesBack {s : State} {n m : Time} {rest : List Time} (k : Time → State → Result)
    (hnow : s.nowIn = n :: rest) (hlast : s.tLast = some m) (h : n < m) :
    sampleNow s k = .fault .nowBelowEarlierSample := by
  have hno : s.sampleAllowed = false := by
    simp [State.sampleAllowed, hlast, State.nextSample_of_nowIn hnow, h]
  simp [sampleNow, hnow, hno]

section
variable {s : State} {slot : Byte} (hf : Running s) (hn : slot.toNat < s.params.numTimer)
include hf hn

theorem exec_timerCfg_goesBack (index : Half) {freq : Half} (count : Byte) {n m : Time} {rest : List Time}
    (hfreq : freq ≠ 0) (hlast : s.tLast = some m) (hnow : s.nowIn = n :: rest) (h : n < m) :
    exec (.timerCfg slot index freq count) s = .fault .nowBelowEarlierSample :=
  (withSlot_ok hf hn).trans ((if_neg hfreq).trans (sampleNow_goesBack _ hnow hlast h))

variable {r : Timer} (hr : s.timer? slot = some r) (hi : r.idx.toNat < s.params.cap)
  (hv : s.byteAt r.idx.toNat ≠ 0)
include hr hi hv

/-- The check sample goes back: the pull before it has changed neither the time input nor T_LAST. -/
theorem exec_timerUpdate_checkGoesBack {n m : Time} {rest : List Time} (hlast : s.tLast = some m)
    (hnow : s.nowIn = n :: rest) (h : n < m) :
    exec (.timerUpdate slot) s = .fault .nowBelowEarlierSample :=
  (withTimer_ok hf hn hr).trans ((memRead_ok hi).trans ((if_neg hv).trans
    (sampleNow_goesBack (s := s.putTimer slot (s.pulledTimer r)) _ hnow hlast h)))

/-- The second sample of a due tick goes back: T_LAST is then the check sample, and the TICK has not changed it. -/
theorem exec_timerUpdate_tickGoesBack {tc tr : Time} {rest : List Time}
    (hm : ∀ m, s.tLast = some m → m ≤ s.nextSample) (hb : r.lastTick ≤ tc) (hnow : s.nowIn = tc :: tr :: rest)
    (hdue : TickDue r tc) (h : tr < tc) :
    exec (.timerUpdate slot) s = .fault .nowBelowEarlierSample := by
  have hcheck : s.nextSample = tc := State.nextSample_of_nowIn hnow
  have hlast : s.afterSample.tLast = some tc := by rw [State.afterSample_tLast, hcheck]
  have hsecond : s.afterSample.nowIn = tr :: rest := by rw [State.afterSample_nowIn, hnow, List.tail_cons]
  rw [exec_timerUpdate_pulled hf hn hr hi hv hm, hcheck, if_pos ((tickDue_iff hb).2 hdue)]
  exact sampleNow_goesBack (s := (s.afterSample.putTimer slot (s.pulledTimer r)).emit _) _ hsecond hlast h

end

/-- Settles O24: each place where a timer command samples NOW ends in the fault when the time source has gone back. -/
theorem timeGoingBackHasNoMove : Obligations.TimeGoingBackHasNoMove := by
  refine ⟨fun s slot index freq count m n rest hf hn hfreq hlast hnow hlt => ?_,
    fun s slot r m hf hn hr hi hv hlast => ⟨fun n rest hnow hlt => ?_, fun tc tr rest hnow hb hm hdue hlt => ?_⟩⟩
  · exact exec_timerCfg_goesBack hf hn index count hfreq hlast hnow hlt
  · exact exec_timerUpdate_checkGoesBack hf hn hr hi hv hlast hnow hlt
  · have hfloor : ∀ m', s.tLast = some m' → m' ≤ s.nextSample := fun m' hm' => by
      rw [← Option.some.inj (hlast.symm.trans hm'), State.nextSample_of_nowIn hnow]
      exact hm
    exact exec_timerUpdate_tickGoesBack hf hn hr hi hv hfloor (BitVec.le_trans hb hm) hnow hdue hlt

end Sys2Proof.Machine
